-- ==== Sys2Proof/Word.lean ====
section
/-! DEFINITION. The word types of the block: the 32-bit register word (R10, R14, R16 to R18) and the 4-bit
nibble (R35, R100). Raw addresses and logical indices are plain naturals (R6, R30). -/

namespace Sys2Proof

/-- A nibble: "an unsigned 4-bit value (0–15)" (R9, R35). -/
abbrev Nibble := BitVec 4

/-- A register word, 32 bits (R5: `W_CURSOR = 32`, `W_FIELD = 32`). -/
abbrev Word := BitVec 32

end Sys2Proof
end

