-- ==== Sys2Proof/Config.lean ====
section
/-! DEFINITION. What an implementation fixes (R5) and the free values of the spec. An `opaque` constant has no
value any proof can see: a statement proved of the model holds for every value of it. The two weight tables
have a body because rules R111 and R112 state the formulas; everything R5 leaves open is opaque. -/

namespace Sys2Proof.Config

/-- The two tie rules of R106. The spec names `halfAwayFromZero` as the default. -/
inductive RoundTies where
  | halfAwayFromZero
  | halfToEven
  deriving DecidableEq, Repr, Inhabited

/-- `ROUND_TIES` (R5, D4): the source names no tie rule, so the model does not pick one. -/
opaque roundTies : RoundTies

/-- How far `MAXLEN` falls short of its upper bound `2^31 - 1` (R5, D2: `MAXLEN` is OPEN). -/
opaque maxLenShortfall : Fin 2147483647

/-- `MAXLEN`, the capacity of BITBUF in bits: some value with `1 <= MAXLEN < 2^31` (R5, R19, D2). -/
def maxLen : Nat := 2147483647 - maxLenShortfall.val

/-- How far this implementation's `DEWPT` departs from the reference at `(T10, H)`; the pipeline keeps the
result inside the tolerance of property DP1 (R113, D13). A function of `(T10, H)` alone: property DP4. -/
opaque dewptDeviation : Int → Nat → Int

/-- What a BITBUF cell that nothing has written holds: unspecified at power-on (R19, R23, U6). -/
opaque powerOnBit : Nat → Bool

/-- What a result read made while BUSY returns: "unspecified values" (R146, U7). The argument counts the uses of
free values, so that each such read has its own. -/
opaque unspecifiedRead : Nat → BitVec 32

/-- Where a BITBUF write at a raw address that BITBUF does not have lands, if anywhere: the spec does not say (R19;
log entry 4). The first argument counts the uses of free values, so that each such LOAD has its own answer; the
second is the address. An answer at or above `MAXLEN` is no cell. -/
opaque strayCell : Nat → Nat → Option Nat

/-- `RAIN_WEIGHTS` (R111), held in tenths of a millimetre so that the alternative reading, whose last weight is
1/10 mm, is expressible. -/
structure RainWeights where
  w4 : Nat
  w3 : Nat
  w2 : Nat
  w1 : Nat
  w0 : Nat
  deriving DecidableEq, Repr

/-- `RAIN_WEIGHTS = (1000, 100, 10, 1, 1)` millimetres, the formula rule R111 states (D27). -/
def rainWeights : RainWeights := { w4 := 10000, w3 := 1000, w2 := 100, w1 := 10, w0 := 10 }

/-- `WDIR_WEIGHTS` (R112), in tenths of a degree. -/
structure WdirWeights where
  w2 : Nat
  w1 : Nat
  w0 : Nat
  deriving DecidableEq, Repr

/-- `WDIR_WEIGHTS = (100, 10, 1)` tenths of a degree, the formula rule R112 states (D27). -/
def wdirWeights : WdirWeights := { w2 := 100, w1 := 10, w0 := 1 }

end Sys2Proof.Config
end

