-- ==== Sys2Proof/Syntax.lean ====
section
/-! DEFINITION. The instructions: one constructor for each row of spec/opcode_table.json, and the two kinds of
code they are read from, the raw bit stream at the cursor (R45, R46) and a host access (R18, R140 to R145).

A scan step finds at its cursor exactly one packet-side row, the most specific one that matches (R62): a type
row when the 36-bit header word can be read; `sync` when the 20-bit frame matches and the id is cut off;
`preamble` when the raw window matches and the frame does not. -/

namespace Sys2Proof

/-- The header nibbles that carry no meaning of their own: packet nibbles 9 to 12 (R46, R49, R89). -/
structure Header where
  channel  : Nibble
  rolling0 : Nibble
  rolling1 : Nibble
  flags    : Nibble
  deriving DecidableEq, Repr

/-- Two checksum nibbles in transmission order: the low nibble of the sum, then the high one (R36, R46). -/
structure Check where
  low  : Nibble
  high : Nibble
  deriving DecidableEq, Repr

/-- The INDOOR data field, data nibbles d0 to d10 (R54); `x9` is read by no rule. -/
structure IndoorData where
  t0 : Nibble
  t1 : Nibble
  t2 : Nibble
  sg : Nibble
  h0 : Nibble
  h1 : Nibble
  cf : Nibble
  b0 : Nibble
  b1 : Nibble
  x9 : Nibble
  fc : Nibble
  deriving DecidableEq, Repr

/-- The RAIN data field, data nibbles d0 to d7 (R55). -/
structure RainData where
  r0 : Nibble
  r1 : Nibble
  r2 : Nibble
  n0 : Nibble
  n1 : Nibble
  n2 : Nibble
  n3 : Nibble
  n4 : Nibble
  deriving DecidableEq, Repr

/-- The WIND data field, data nibbles d0 to d8 (R56). -/
structure WindData where
  w0 : Nibble
  w1 : Nibble
  w2 : Nibble
  g0 : Nibble
  g1 : Nibble
  g2 : Nibble
  a0 : Nibble
  a1 : Nibble
  a2 : Nibble
  deriving DecidableEq, Repr

/-- The OUT2 data field, data nibbles d0 to d6 (R57); `x6` is read by no rule. -/
structure Out2Data where
  t0 : Nibble
  t1 : Nibble
  t2 : Nibble
  sg : Nibble
  h0 : Nibble
  h1 : Nibble
  x6 : Nibble
  deriving DecidableEq, Repr

/-- The OUT1 data field, data nibbles d0 to d6 (R58); of `bt` only bit 3 is looked at. -/
structure Out1Data where
  t0 : Nibble
  t1 : Nibble
  t2 : Nibble
  sg : Nibble
  h0 : Nibble
  h1 : Nibble
  bt : Nibble
  deriving DecidableEq, Repr

/-- The five sensor types of the table of R52. -/
inductive SensorType where
  | indoor
  | rain
  | wind
  | out2
  | out1
  deriving DecidableEq, Repr

/-- The instructions, one constructor per row of the opcode table. -/
inductive Instr where
  /-- PREAMBLE: the raw window matches (R66); what follows it is not a frame. -/
  | preamble
  /-- SYNC: preamble and sync nibble match (R81); the stream ends inside the sensor id. -/
  | sync
  /-- INDOOR, id 5d60 (R121). -/
  | indoor (h : Header) (d : IndoorData) (c : Check)
  /-- RAIN, id 2d10 (R122). -/
  | rain (h : Header) (d : RainData) (c : Check)
  /-- WIND, id 3d00 (R123). -/
  | wind (h : Header) (d : WindData) (c : Check)
  /-- OUT2, id 1d20 (R124). -/
  | out2 (h : Header) (d : Out2Data) (c : Check)
  /-- OUT1, id 1d30 (R125). -/
  | out1 (h : Header) (d : Out1Data) (c : Check)
  /-- UNK, any other id (R126): the packet is the rest of the stream, `tail` being logical bits [36, L). -/
  | unk (id : BitVec 16) (tail : List Bool)
  /-- LOAD (R140): `bits` into BITBUF from raw address `base`, and the LEN write that goes with it if any.
  The whole LOAD of a stream is `load 0 bits (some bits.length)`; a LEN write alone is `load 0 [] (some v)`. -/
  | load (base : Word) (bits : List Bool) (len : Option Word)
  /-- START (R141), with the VERBOSE bit of the same CTRL write (R17). -/
  | start (verbose : Bool)
  /-- SET_VERBOSE (R145): a CTRL write with neither START nor SRST. -/
  | setVerbose (verbose : Bool)
  /-- SRST (R144). -/
  | srst
  /-- READ_F (R142): register number 0x10 + n, of which n = 0..10 exist. -/
  | readF (n : BitVec 4)
  /-- READ_VALID (R142). -/
  | readValid
  /-- READ_STATUS (R143). -/
  | readStatus
  /-- READ_CURSOR (R143). -/
  | readCursor
  /-- READ_LEN (R143). -/
  | readLen
  /-- READ_CTRL (R143). -/
  | readCtrl
  deriving DecidableEq, Repr

/-- One access of the host to the block: a register read or write (the map of R18), or a run of writes in the
bit-addressed BITBUF space, closed by a LEN write when there is one (R140). -/
inductive HostAccess where
  | read (reg : BitVec 8)
  | write (reg : BitVec 8) (data : Word)
  | bitbuf (base : Word) (bits : List Bool) (len : Option Word)
  deriving DecidableEq, Repr

/-- What the decoder is given: the raw bits from the cursor to LEN, or a host access. -/
inductive Code where
  | stream (raw : List Bool)
  | access (a : HostAccess)
  deriving DecidableEq, Repr

end Sys2Proof
end

