-- ==== Sys2Proof/WellFormed.lean ====
section
/-! DEFINITION. Which instruction terms an encoding can stand for. Every operand is typed to its field's width, so
two checks are left: an UNK packet's id is none of the five known ones (R52, R62), and a LOAD writes no raw
address that no implementation has (R5, R19: `MAXLEN < 2^31`). -/

namespace Sys2Proof

/-- The id of an UNK packet: none of the five of the sensor table (R52). -/
def unknownId (id : BitVec 16) : Bool :=
  id != 0x5D60#16 && id != 0x2D10#16 && id != 0x3D00#16 && id != 0x1D20#16 && id != 0x1D30#16

/-- A run of BITBUF writes that some implementation has the cells for (R5, R19). -/
def addressableRun (base : Word) (bits : List Bool) : Bool :=
  decide (base.toNat + bits.length ≤ 2147483647)

/-- The terms the encodings can stand for. -/
def Instr.wellFormed : Instr → Bool
  | .preamble => true
  | .sync => true
  | .indoor _ _ _ => true
  | .rain _ _ _ => true
  | .wind _ _ _ => true
  | .out2 _ _ _ => true
  | .out1 _ _ _ => true
  | .unk id _ => unknownId id
  | .load base bits _ => addressableRun base bits
  | .start _ => true
  | .setVerbose _ => true
  | .srst => true
  | .readF _ => true
  | .readValid => true
  | .readStatus => true
  | .readCursor => true
  | .readLen => true
  | .readCtrl => true

end Sys2Proof
end

