-- ==== Sys2Proof/Decode.lean ====
section
/-! DEFINITION. The decoder, total and rejecting by name, and after it the encoder. The decoder reads the raw bit
stream at the cursor (R45 to R59, R62, R66, R68) or a host access (R17, R18, R140 to R145). -/

namespace Sys2Proof

/-- Why a code is no instruction of the opcode table. -/
inductive DecodeError where
  /-- The 32-bit raw window at the cursor is not the preamble: outcome NO_PREAMBLE (R67, R151). -/
  | noPreamble
  /-- A read of a register number the map does not have: it returns 0 (R18). -/
  | reservedRead (reg : BitVec 8)
  /-- A write to a read-only or reserved register number: it is ignored (R18, R146). -/
  | ignoredWrite (reg : BitVec 8)
  deriving DecidableEq, Repr

/-! ### Bits and nibbles -/

/-- Four logical bits, least significant first (R35, R100). -/
def nibbleOfBits (b0 b1 b2 b3 : Bool) : Nibble :=
  BitVec.ofNat 4 (b0.toNat + 2 * b1.toNat + 4 * b2.toNat + 8 * b3.toNat)

/-- `NIB(k)` of the logical stream `l` (R100). Its callers ask only for indices below `len l`, save for the
operands of a packet that BOUNDS then rejects; there a bit that does not exist is taken as 0. -/
def nib (l : List Bool) (k : Nat) : Nibble :=
  nibbleOfBits (l.getD k false) (l.getD (k + 1) false) (l.getD (k + 2) false) (l.getD (k + 3) false)

/-- Data nibble `d(j) = NIB(52 + 4j)` (R50, R101). -/
def dataNib (l : List Bool) (j : Nat) : Nibble := nib l (52 + 4 * j)

/-- The even-phase bits of a raw stream: `bits[i::2]` (R34, R68). -/
def deinterleave : List Bool → List Bool
  | [] => []
  | [b] => [b]
  | b :: _ :: rest => b :: deinterleave rest

/-- The raw preamble `10` sixteen times (R45, R66). -/
def preambleBits : List Bool := (List.replicate 16 [true, false]).flatten

/-- `PREAMBLE(w)` on the first 32 raw bits of a stream (R66). -/
def preambleTest (raw : List Bool) : Bool := decide (raw.take 32 = preambleBits)

/-- `ID = NIB(20)<<12 | NIB(24)<<8 | NIB(28)<<4 | NIB(32)` (R48, R82). -/
def sensorId (l : List Bool) : BitVec 16 := nib l 20 ++ nib l 24 ++ nib l 28 ++ nib l 32

/-! ### The sensor table -/

/-- The id column of the sensor table (R52). -/
def sensorTypeId : SensorType → BitVec 16
  | .indoor => 0x5D60#16
  | .rain => 0x2D10#16
  | .wind => 0x3D00#16
  | .out2 => 0x1D20#16
  | .out1 => 0x1D30#16

/-- The `ds` column of the sensor table: the logical index of the first checksum bit (R51, R52). -/
def sensorTypeDs : SensorType → Nat
  | .indoor => 96
  | .rain => 84
  | .wind => 88
  | .out2 => 80
  | .out1 => 80

/-- `DISPATCH` (R83): the type an id selects, `none` standing for UNK. -/
def dispatch (id : BitVec 16) : Option SensorType :=
  if id = 0x5D60#16 then some .indoor
  else if id = 0x2D10#16 then some .rain
  else if id = 0x3D00#16 then some .wind
  else if id = 0x1D20#16 then some .out2
  else if id = 0x1D30#16 then some .out1
  else none

/-! ### Operands of a packet -/

/-- The header nibbles (R46, R89). -/
def headerOf (l : List Bool) : Header :=
  { channel := nib l 36, rolling0 := nib l 40, rolling1 := nib l 44, flags := nib l 48 }

/-- The observed checksum nibbles at `[ds, ds+8)` (R86). -/
def checkOf (l : List Bool) (ds : Nat) : Check := { low := nib l ds, high := nib l (ds + 4) }

/-- R54. -/
def indoorDataOf (l : List Bool) : IndoorData :=
  { t0 := dataNib l 0, t1 := dataNib l 1, t2 := dataNib l 2, sg := dataNib l 3, h0 := dataNib l 4,
    h1 := dataNib l 5, cf := dataNib l 6, b0 := dataNib l 7, b1 := dataNib l 8, x9 := dataNib l 9,
    fc := dataNib l 10 }

/-- R55. -/
def rainDataOf (l : List Bool) : RainData :=
  { r0 := dataNib l 0, r1 := dataNib l 1, r2 := dataNib l 2, n0 := dataNib l 3, n1 := dataNib l 4,
    n2 := dataNib l 5, n3 := dataNib l 6, n4 := dataNib l 7 }

/-- R56. -/
def windDataOf (l : List Bool) : WindData :=
  { w0 := dataNib l 0, w1 := dataNib l 1, w2 := dataNib l 2, g0 := dataNib l 3, g1 := dataNib l 4,
    g2 := dataNib l 5, a0 := dataNib l 6, a1 := dataNib l 7, a2 := dataNib l 8 }

/-- R57. -/
def out2DataOf (l : List Bool) : Out2Data :=
  { t0 := dataNib l 0, t1 := dataNib l 1, t2 := dataNib l 2, sg := dataNib l 3, h0 := dataNib l 4,
    h1 := dataNib l 5, x6 := dataNib l 6 }

/-- R58. -/
def out1DataOf (l : List Bool) : Out1Data :=
  { t0 := dataNib l 0, t1 := dataNib l 1, t2 := dataNib l 2, sg := dataNib l 3, h0 := dataNib l 4,
    h1 := dataNib l 5, bt := dataNib l 6 }

/-! ### The decoder -/

/-- A framed packet whose id can be read: the type row of its id (R52, R62). -/
def decodePacket (l : List Bool) : Instr :=
  match dispatch (sensorId l) with
  | some .indoor => .indoor (headerOf l) (indoorDataOf l) (checkOf l (sensorTypeDs .indoor))
  | some .rain => .rain (headerOf l) (rainDataOf l) (checkOf l (sensorTypeDs .rain))
  | some .wind => .wind (headerOf l) (windDataOf l) (checkOf l (sensorTypeDs .wind))
  | some .out2 => .out2 (headerOf l) (out2DataOf l) (checkOf l (sensorTypeDs .out2))
  | some .out1 => .out1 (headerOf l) (out1DataOf l) (checkOf l (sensorTypeDs .out1))
  | none => .unk (sensorId l) (l.drop 36)

/-- The logical stream of a window that passed the preamble test: the most specific row it matches (R62). -/
def decodeLogical (l : List Bool) : Instr :=
  if l.length < 20 ∨ nib l 16 ≠ 0xA#4 then .preamble
  else if l.length < 36 then .sync
  else decodePacket l

/-- The raw stream at the cursor (R66, R67, R68). -/
def decodeStream (raw : List Bool) : Except DecodeError Instr :=
  if preambleTest raw then .ok (decodeLogical (deinterleave raw)) else .error .noPreamble

/-- A register read (R18, R142, R143); READ_F takes the numbers 0x10 to 0x1F (R62). -/
def decodeRead (reg : BitVec 8) : Except DecodeError Instr :=
  if reg = 0x00#8 then .ok .readCtrl
  else if reg = 0x01#8 then .ok .readStatus
  else if reg = 0x02#8 then .ok .readLen
  else if reg = 0x03#8 then .ok .readCursor
  else if reg = 0x04#8 then .ok .readValid
  else if reg.extractLsb' 4 4 = 0x1#4 then .ok (.readF (reg.extractLsb' 0 4))
  else .error (.reservedRead reg)

/-- The write data of CTRL, in the order R17 applies its bits: SRST first, then START, else SET_VERBOSE. -/
def decodeCtrlWrite (data : Word) : Instr :=
  if data.getLsbD 2 then .srst
  else if data.getLsbD 0 then .start (data.getLsbD 1)
  else .setVerbose (data.getLsbD 1)

/-- A register write (R17, R18). -/
def decodeWrite (reg : BitVec 8) (data : Word) : Except DecodeError Instr :=
  if reg = 0x00#8 then .ok (decodeCtrlWrite data)
  else if reg = 0x02#8 then .ok (.load 0#32 [] (some data))
  else .error (.ignoredWrite reg)

/-- A host access (R18, R140). -/
def decodeAccess : HostAccess → Except DecodeError Instr
  | .read reg => decodeRead reg
  | .write reg data => decodeWrite reg data
  | .bitbuf base bits len => .ok (.load base bits len)

/-- The decoder. -/
def decode : Code → Except DecodeError Instr
  | .stream raw => decodeStream raw
  | .access a => decodeAccess a

/-! ### The encoder -/

/-- A nibble as four logical bits, least significant first (R35, R63). -/
def nibbleBits (n : Nibble) : List Bool := [n.getLsbD 0, n.getLsbD 1, n.getLsbD 2, n.getLsbD 3]

/-- A nibble list as logical bits (R63). -/
def nibblesBits (ns : List Nibble) : List Bool := ns.flatMap nibbleBits

/-- Each logical bit `b` as the raw pair `b, 1-b` (R45, R63). -/
def doubleBits (l : List Bool) : List Bool := l.flatMap fun b => [b, !b]

/-- `ENC(N)` (R63). -/
def enc (ns : List Nibble) : List Bool := doubleBits (nibblesBits ns)

/-- The four id digits, leftmost hex digit first (R36, R48). -/
def idNibbles (id : BitVec 16) : List Nibble :=
  [id.extractLsb' 12 4, id.extractLsb' 8 4, id.extractLsb' 4 4, id.extractLsb' 0 4]

/-- Packet nibbles 9 to 12 (R46). -/
def headerNibbles (h : Header) : List Nibble := [h.channel, h.rolling0, h.rolling1, h.flags]

/-- R54. -/
def indoorNibbles (d : IndoorData) : List Nibble :=
  [d.t0, d.t1, d.t2, d.sg, d.h0, d.h1, d.cf, d.b0, d.b1, d.x9, d.fc]

/-- R55. -/
def rainNibbles (d : RainData) : List Nibble := [d.r0, d.r1, d.r2, d.n0, d.n1, d.n2, d.n3, d.n4]

/-- R56. -/
def windNibbles (d : WindData) : List Nibble := [d.w0, d.w1, d.w2, d.g0, d.g1, d.g2, d.a0, d.a1, d.a2]

/-- R57. -/
def out2Nibbles (d : Out2Data) : List Nibble := [d.t0, d.t1, d.t2, d.sg, d.h0, d.h1, d.x6]

/-- R58. -/
def out1Nibbles (d : Out1Data) : List Nibble := [d.t0, d.t1, d.t2, d.sg, d.h0, d.h1, d.bt]

/-- The nibbles the checksum covers: id, header and data, packet nibbles 5 to dsn - 1 (R85). -/
def summedNibbles (id : BitVec 16) (h : Header) (data : List Nibble) : List Nibble :=
  idNibbles id ++ headerNibbles h ++ data

/-- The preamble and the sync nibble (R46, R47). -/
def frameNibbles : List Nibble := [0xF#4, 0xF#4, 0xF#4, 0xF#4, 0xA#4]

/-- The nibbles of a whole packet, postamble `00` (R46, R63). -/
def packetNibbles (t : SensorType) (h : Header) (data : List Nibble) (c : Check) : List Nibble :=
  frameNibbles ++ summedNibbles (sensorTypeId t) h data ++ [c.low, c.high] ++ [0x0#4, 0x0#4]

/-- The logical stream of an UNK packet (R52, R59). -/
def unkBits (id : BitVec 16) (tail : List Bool) : List Bool :=
  nibblesBits (frameNibbles ++ idNibbles id) ++ tail

/-- A CTRL write's data from its three bits (R17). -/
def ctrlData (start verbose srst : Bool) : Word :=
  BitVec.ofNat 32 (start.toNat + 2 * verbose.toNat + 4 * srst.toNat)

/-- The encoder: the code of a well-formed instruction. -/
def encode : Instr → Code
  | .preamble => .stream preambleBits
  | .sync => .stream (enc frameNibbles)
  | .indoor h d c => .stream (enc (packetNibbles .indoor h (indoorNibbles d) c))
  | .rain h d c => .stream (enc (packetNibbles .rain h (rainNibbles d) c))
  | .wind h d c => .stream (enc (packetNibbles .wind h (windNibbles d) c))
  | .out2 h d c => .stream (enc (packetNibbles .out2 h (out2Nibbles d) c))
  | .out1 h d c => .stream (enc (packetNibbles .out1 h (out1Nibbles d) c))
  | .unk id tail => .stream (doubleBits (unkBits id tail))
  | .load base bits len => .access (.bitbuf base bits len)
  | .start verbose => .access (.write 0x00#8 (ctrlData true verbose false))
  | .setVerbose verbose => .access (.write 0x00#8 (ctrlData false verbose false))
  | .srst => .access (.write 0x00#8 (ctrlData false false true))
  | .readF n => .access (.read (0x1#4 ++ n))
  | .readValid => .access (.read 0x04#8)
  | .readStatus => .access (.read 0x01#8)
  | .readCursor => .access (.read 0x03#8)
  | .readLen => .access (.read 0x02#8)
  | .readCtrl => .access (.read 0x00#8)

/-! ### The words of the opcode table

The table's words live in three spaces (R62): `RW`, raw bits of BITBUF; `HW`, logical bits; and for the host
rows a register number or the write data of CTRL. The number of bits tells them apart. -/

/-- The `n` low bits of `w`, least significant first. -/
def wordBits : Nat → Nat → List Bool
  | 0, _ => []
  | n + 1, w => (w % 2 == 1) :: wordBits n (w / 2)

/-- `n` zero bits. -/
def zeroBits (n : Nat) : List Bool := List.replicate n false

/-- A table word as the code the machine is given (R62). Up to 8 bits it is the register number of a read; of 32
bits, the raw window when it is the preamble and otherwise the write data of CTRL; of fewer than 36, the logical
bits of a frame with nothing after them; from 36 on, the logical bits of a packet, zeros after them up to the
longest packet (112). The raw preamble is followed by zeros to the same length. -/
def tableCode (nbits w : Nat) : Code :=
  if nbits ≤ 8 then .access (.read (BitVec.ofNat 8 w))
  else if nbits = 32 then
    if w = 0x55555555 then .stream (wordBits 32 w ++ zeroBits 192)
    else .access (.write 0x00#8 (BitVec.ofNat 32 w))
  else if nbits < 36 then .stream (doubleBits (wordBits nbits w))
  else .stream (doubleBits (wordBits nbits w ++ zeroBits (112 - nbits)))

/-- The instruction the decoder reads from a word of the opcode table. -/
def decodeTableWord (nbits w : Nat) : Option Instr :=
  match decode (tableCode nbits w) with
  | .ok i => some i
  | .error _ => none

end Sys2Proof
end

