-- ==== Sys2Proof/Machine/State.lean ====
section
/-! DEFINITION. The state of the block as plain data: the registers of R10 to R18, the bit buffer (R19), the DIAG
port (R22), and three fields of the model's own that hold the host's side of the interface. -/

namespace Sys2Proof.Machine

/-- Why a step stops with a fault: never. "The block has no fatal error" (R160), so there is no constructor. -/
inductive Fault where
  deriving DecidableEq, Repr

/-- Why an instruction has no meaning. -/
inductive Refusal where
  /-- The instruction has no meaning in the model yet. Raised by an arm of `exec` only; no arm does. Safe. -/
  | notModelled (mnemonic : String)
  deriving DecidableEq, Repr

/-- The phase that the pair (BUSY, DONE) of STATUS encodes (R16): idle (0,0), busy (1,0), done (0,1). -/
inductive Phase where
  | idle
  | busy
  | done
  deriving DecidableEq, Repr

/-- The eleven result registers by canonical field name, in the order of their numbers (R10). -/
inductive Field where
  | tempf
  | humidity
  | dewptf
  | temp2f
  | indoortempf
  | indoorhumidity
  | baromin
  | dailyrainin
  | windspeedmph
  | windgustmph
  | winddir
  deriving DecidableEq, Repr

/-- The result registers with their valid bits: `none` when `V[n] = 0` (R10, R11). -/
structure Readings where
  tempf          : Option Word
  humidity       : Option Word
  dewptf         : Option Word
  temp2f         : Option Word
  indoortempf    : Option Word
  indoorhumidity : Option Word
  baromin        : Option Word
  dailyrainin    : Option Word
  windspeedmph   : Option Word
  windgustmph    : Option Word
  winddir        : Option Word
  deriving DecidableEq, Repr

/-- The empty reading map: every valid bit 0 (R23, R141). -/
def Readings.empty : Readings :=
  { tempf := none, humidity := none, dewptf := none, temp2f := none, indoortempf := none,
    indoorhumidity := none, baromin := none, dailyrainin := none, windspeedmph := none,
    windgustmph := none, winddir := none }

/-- BITBUF (R19): the written cells, as (raw address, bit) pairs with strictly rising addresses. A cell that is
not listed has never been written. -/
abbrev Memory := List (Nat × Bool)

/-- The outcomes of a scan step (R150). -/
inductive AttemptOutcome where
  | decoded
  | unknownSensor
  | noPreamble
  | badSync
  | truncated
  | checksumMismatch
  deriving DecidableEq, Repr

/-- At which stage an attempt ran past the stream (R91, R153). -/
inductive Stage where
  | sync
  | id
  | body
  deriving DecidableEq, Repr

/-- The `info` field of a DIAG record (R91): what a failing outcome read, or the informational values of a
decoded packet (R121 to R125). DESIGN CHOICE (log entry 24): R91, R122 and R124 give `rainrate` and `humidity2` no
width; the model holds each in a 32-bit word. -/
inductive DiagInfo where
  | none
  | badSync (nibble : Nibble)
  | truncated (stage : Stage)
  | checksumMismatch (ccs1 ccs2 ocs1 ocs2 : Nibble)
  | indoor (comfort forecast : Nibble)
  | rain (rainrate : Word)
  | out2 (humidity2 : Word)
  | out1 (battery : Bool)
  deriving DecidableEq, Repr

/-- A DIAG record (R22, R91); an absent field is `none`. -/
structure DiagRecord where
  offset   : Word
  L        : Word
  outcome  : AttemptOutcome
  sensorId : Option (BitVec 16)
  ds       : Option Word
  consumed : Word
  header   : Option Header
  info     : DiagInfo
  deriving DecidableEq, Repr

/-- What the host does in one step: an access, or nothing, so that the block may act. -/
inductive HostSlot where
  | access (a : HostAccess)
  | quiet
  deriving DecidableEq, Repr

/-- The state of the block. -/
structure State where
  /-- STATUS (R16). -/
  phase     : Phase
  /-- CTRL.VERBOSE (R17). -/
  verbose   : Bool
  /-- LEN (R18). -/
  len       : Word
  /-- CURSOR, the scan cursor (R14). -/
  cursor    : Word
  /-- F[0..10] and V[0..10] (R10, R11, R15). -/
  readings  : Readings
  /-- BITBUF (R19). -/
  bitbuf    : Memory
  /-- The records presented on the DIAG port, oldest first (R22). -/
  diag      : List DiagRecord
  /-- The model's own: what the host does in the coming steps, one slot a step; empty means it does nothing. -/
  hostPort  : List HostSlot
  /-- The model's own: what the last register read returned to the host; `none` before any read, and for a read
  of `F[n]` while `V[n] = 0` (R142: "a model returns `none`"). -/
  readPort  : Option Word
  /-- The model's own: how many accesses have used a free value (a result read while BUSY, R146; a LOAD past the
  last cell), the index of the next one. -/
  freeUses : Nat
  deriving DecidableEq, Repr

/-- Right after power-on reset (R23, R170); the three fields of the model's own are empty. -/
def State.reset : State :=
  { phase := .idle, verbose := false, len := 0#32, cursor := 0#32, readings := Readings.empty, bitbuf := [],
    diag := [], hostPort := [], readPort := none, freeUses := 0 }

end Sys2Proof.Machine
end

