-- ==== Sys2Proof/Machine/Operands.lean ====
section
/-! DEFINITION. Operand assembly: the decimal forms of R102 to R105, R111 and R112, and the two forms of address
(R30, R34, R68). No nibble is checked to be a decimal digit (R102). -/

namespace Sys2Proof.Machine

/-- `DEC3(n0, n1, n2) = 100*n2 + 10*n1 + n0` (R103). -/
def dec3 (n0 n1 n2 : Nibble) : Nat := 100 * n2.toNat + 10 * n1.toNat + n0.toNat

/-- `BCD2(n0, n1) = 10*n1 + n0` (R104). -/
def bcd2 (n0 n1 : Nibble) : Nat := 10 * n1.toNat + n0.toNat

/-- `SIGNED(m, sg)`: every non-zero sign nibble negates (R105). -/
def signed (m : Nat) (sg : Nibble) : Int := if sg = 0#4 then (m : Int) else -(m : Int)

/-- The cumulative rain total in tenths of a millimetre under the weights `w` (R111). -/
def rain5 (w : Config.RainWeights) (n0 n1 n2 n3 n4 : Nibble) : Nat :=
  w.w4 * n4.toNat + w.w3 * n3.toNat + w.w2 * n2.toNat + w.w1 * n1.toNat + w.w0 * n0.toNat

/-- The wind direction in tenths of a degree under the weights `w` (R112). -/
def wdirTenths (w : Config.WdirWeights) (n0 n1 n2 : Nibble) : Nat :=
  w.w2 * n2.toNat + w.w1 * n1.toNat + w.w0 * n0.toNat

/-- The signed temperature in tenths of a degree C (R103, R105, R121). -/
def tempTenths (t0 t1 t2 sg : Nibble) : Int := signed (dec3 t0 t1 t2) sg

/-- `L = (LEN - i + 1) >> 1`, the logical length at the cursor (R34, R68). -/
def logicalLength (s : State) : Nat := (s.len.toNat - s.cursor.toNat + 1) / 2

end Sys2Proof.Machine
end

