-- ==== Sys2Proof/Machine/Pipelines.lean ====
section
/-! DEFINITION. Rounding and the scaling pipelines (R106 to R116), on integers with one final rounding (R114). -/

namespace Sys2Proof.Machine

/-- The tie rule in force (R106). -/
def tieRule : Config.RoundTies := Config.roundTies

/-- `round_q(a, b)` for `a >= 0` (R106). The tie rule is consulted at an exact tie only. -/
def roundNat (ties : Config.RoundTies) (a b : Nat) : Nat :=
  if 2 * (a % b) < b then a / b
  else if b < 2 * (a % b) then a / b + 1
  else match ties with
    | .halfAwayFromZero => a / b + 1
    | .halfToEven => if a / b % 2 = 0 then a / b else a / b + 1

/-- `round_q(a, b)` (R106): a negative `a` rounds as its absolute value does. -/
def roundQ (ties : Config.RoundTies) (a : Int) (b : Nat) : Int :=
  if 0 ≤ a then (roundNat ties a.toNat b : Int) else -(roundNat ties (-a).toNat b : Int)

/-- `C2F(T10) = 18*T10 + 3200` (R107). -/
def c2f (t10 : Int) : Int := 18 * t10 + 3200

/-- `MS2MPH(W10) = round_q(W10 * 223694, 10000)` (R108). -/
def ms2mph (w10 : Nat) : Int := roundQ tieRule (w10 * 223694 : Nat) 10000

/-- `MBAR2INHG(P) = round_q(P * 10^12, 338638866667)` (R109). -/
def mbar2inhg (p : Nat) : Int := roundQ tieRule (p * 1000000000000 : Nat) 338638866667

/-- `MM2IN(R) = round_q(R * 500, 127)` (R110). -/
def mm2in (r : Nat) : Int := roundQ tieRule (r * 500 : Nat) 127

/-- `MM2IN10(R10) = round_q(R10 * 50, 127)`, for a quantity in tenths of a millimetre (R110). -/
def mm2in10 (r10 : Nat) : Int := roundQ tieRule (r10 * 50 : Nat) 127

/-- `WDIR`: tenths of a degree to whole degrees, the one pipeline that can tie (R112). -/
def wdir (n0 n1 n2 : Nibble) : Int := roundQ tieRule (wdirTenths Config.wdirWeights n0 n1 n2 : Nat) 10

/-- The cumulative rain total in hundredths of an inch (R110, R111, R122). -/
def rainInches (n0 n1 n2 n3 n4 : Nibble) : Int := mm2in10 (rain5 Config.rainWeights n0 n1 n2 n3 n4)

/-! ### Dew point (R113)

The exact dew point in hundredths of a degree F is `X = 43830 γ / (17.67 - γ) + 3200` with
`γ = ln(H/100) + 1767 T10 / (100 (2435 + T10))`. The logarithm is evaluated in fixed point by the series
`ln r = 2 artanh((r-1)/(r+1))` after `H` is doubled into [71, 165]; the evaluation is within 10^-21 of the
logarithm on `1 <= H <= 165`, and on the domain no `X` with `H != 100` lies within 10^-9 of an integer or a half
integer, so the floor and the nearest integer below are those of the exact value (both bounds computed outside
Lean: notes/assumptions/5.md). -/

/-- The fixed-point scale. -/
def lnScale : Int := 1000000000000000000000000

/-- `terms` terms of the artanh series at `num/den`, from the term of index `k`; `power` is the scaled odd power
`(num/den)^(2k+1)`. -/
def artanhTail (num den : Int) : Nat → Nat → Int → Int
  | 0, _, _ => 0
  | terms + 1, k, power =>
    power / (2 * (k : Int) + 1) + artanhTail num den terms (k + 1) (power * num * num / (den * den))

/-- The artanh of `num/den`, scaled. -/
def artanhScaled (num den : Int) : Int := artanhTail num den 30 0 (num * lnScale / den)

/-- `H` doubled until it is at least 71, with the number of doublings. -/
def doubleUp : Nat → Nat → Nat × Nat
  | 0, m => (m, 0)
  | fuel + 1, m => if m < 71 then ((doubleUp fuel (2 * m)).1, (doubleUp fuel (2 * m)).2 + 1) else (m, 0)

/-- `ln(H/100)`, scaled. -/
def lnHundredths (h : Nat) : Int :=
  2 * artanhScaled ((doubleUp 7 h).1 - 100) ((doubleUp 7 h).1 + 100)
    - (doubleUp 7 h).2 * (2 * artanhScaled 1 3)

/-- The numerator of `X - 3200`, over `dewDenominator`. -/
def dewNumerator (t10 : Int) (h : Nat) : Int :=
  43830 * (lnHundredths h * (100 * (2435 + t10)) + 1767 * t10 * lnScale)

/-- The denominator of `X - 3200`: positive on the domain (R113). -/
def dewDenominator (t10 : Int) (h : Nat) : Int :=
  1767 * (2435 + t10) * lnScale - (lnHundredths h * (100 * (2435 + t10)) + 1767 * t10 * lnScale)

/-- The greatest integer not above `X`. -/
def dewFloor (t10 : Int) (h : Nat) : Int := dewNumerator t10 h / dewDenominator t10 h + 3200

/-- `DEWPT_ref`: the integer nearest to `X` (R113, DP2). -/
def dewptRef (t10 : Int) (h : Nat) : Int :=
  (2 * dewNumerator t10 h + dewDenominator t10 h) / (2 * dewDenominator t10 h) + 3200

/-- `v` moved into `[lo, hi]`. -/
def clampInt (lo hi v : Int) : Int := if v < lo then lo else if hi < v then hi else v

/-- The integers within 10 of `X` are `floor X - 9` to `floor X + 10` when `X` is no integer (R113, DP1); any of
them may be what an implementation gives, whatever `deviation` says. At `H = 100` the value is
`C2F(T10)` (DP3, D13, R125). -/
def dewptOf (deviation : Int) (t10 : Int) (h : Nat) : Int :=
  if h = 100 then c2f t10
  else clampInt (dewFloor t10 h - 9) (dewFloor t10 h + 10) (dewptRef t10 h + deviation)

/-- `DEWPT(T10, H)` of this implementation (R113). -/
def dewpt (t10 : Int) (h : Nat) : Int := dewptOf (Config.dewptDeviation t10 h) t10 h

end Sys2Proof.Machine
end

