-- ==== Sys2Proof/Machine/Flags.lean ====
section
/-! DEFINITION. The flags and the words the host reads them in: STATUS (R16), CTRL (R17), VALID (R15); and the
checksum, whose comparison is the only test of a packet's validity (R85, R86). -/

namespace Sys2Proof.Machine

/-- `STATUS.BUSY` (R16). -/
def busyBit : Phase → Bool
  | .idle => false
  | .busy => true
  | .done => false

/-- `STATUS.DONE` (R16). -/
def doneBit : Phase → Bool
  | .idle => false
  | .busy => false
  | .done => true

/-- The word whose only set bit is bit `k`, or 0 when the flag is off. -/
def flagBit (k : Nat) (b : Bool) : Word := if b then BitVec.twoPow 32 k else 0#32

/-- STATUS as a read returns it: bit 0 BUSY, bit 1 DONE, bits 31:2 zero (R16). -/
def statusWord (p : Phase) : Word := flagBit 0 (busyBit p) ||| flagBit 1 (doneBit p)

/-- CTRL as a read returns it: START and SRST read 0, bit 1 is VERBOSE, bits 31:3 read 0 (R17). -/
def ctrlWord (verbose : Bool) : Word := flagBit 1 verbose

/-- VALID as a read returns it: bit n is `V[n]`, bits 31:11 zero (R15, R18). -/
def validWord (r : Readings) : Word :=
  flagBit 0 r.tempf.isSome ||| flagBit 1 r.humidity.isSome ||| flagBit 2 r.dewptf.isSome |||
  flagBit 3 r.temp2f.isSome ||| flagBit 4 r.indoortempf.isSome ||| flagBit 5 r.indoorhumidity.isSome |||
  flagBit 6 r.baromin.isSome ||| flagBit 7 r.dailyrainin.isSome ||| flagBit 8 r.windspeedmph.isSome |||
  flagBit 9 r.windgustmph.isSome ||| flagBit 10 r.winddir.isSome

/-- The sum of a nibble list, unbounded (R85). -/
def nibbleSum (ns : List Nibble) : Nat := (ns.map fun n => n.toNat).sum

/-- The carry fold `(sum & 0xFF) + (sum >> 8)`, applied once (R85). -/
def foldSum (sum : Nat) : Nat := sum % 256 + sum / 256

/-- `CHECKSUM`: `ccs1` and `ccs2` of the summed nibbles (R85). -/
def checksum (ns : List Nibble) : Check :=
  { low := BitVec.ofNat 4 (foldSum (nibbleSum ns)), high := BitVec.ofNat 4 (foldSum (nibbleSum ns) / 16) }

/-- The whole nibbles of the checksummed range `[20, ds)`; a ragged tail is left out (R85, D17). -/
def checksummedNibbles (l : List Bool) (ds : Nat) : List Nibble :=
  (List.range ((ds - 20) / 4)).map fun j => nib l (20 + 4 * j)

end Sys2Proof.Machine
end

