-- ==== Sys2Proof/Machine/Ops.lean ====
section
/-! DEFINITION. The named operations over memory and registers, the outcome of an attempt ("trap entry", R157) and
the return from it ("trap return", R158), and the decode attempt (R80 to R91). -/

namespace Sys2Proof.Machine

/-! ### BITBUF (R19) -/

/-- The canonical form: addresses strictly rising. No entry can equal what an unlisted cell is, "never
written". -/
def Memory.wf : Memory → Bool
  | [] => true
  | [_] => true
  | (a, _) :: (b, v) :: rest => decide (a < b) && Memory.wf ((b, v) :: rest)

/-- The bit last written to cell `a`, if any was. -/
def Memory.find : Memory → Nat → Option Bool
  | [], _ => none
  | (b, v) :: rest, a => if a = b then some v else Memory.find rest a

/-- `MemWrite(a, 1, v)` (R7), keeping the canonical form. -/
def Memory.write : Memory → Nat → Bool → Memory
  | [], a, v => [(a, v)]
  | (b, w) :: rest, a, v =>
    if a < b then (a, v) :: (b, w) :: rest
    else if a = b then (a, v) :: rest
    else (b, w) :: Memory.write rest a v

/-- The cells of a run, written one after the other from `a` (R140). -/
def Memory.writeRun : Memory → Nat → List Bool → Memory
  | m, _, [] => m
  | m, a, v :: rest => Memory.writeRun (Memory.write m a v) (a + 1) rest

/-- The cell a write at raw address `a` lands in: the cell of that number where BITBUF has one (R19), and a free
choice of some cell or none where it has not (log entry 4). `n` picks the free choice. -/
def landingCell (n a : Nat) : Option Nat :=
  if a < Config.maxLen then some a
  else (Config.strayCell n a).filter fun c => decide (c < Config.maxLen)

/-- The writes of a run from `a`, each landing where `landingCell n` says. -/
def Memory.writeStray (n : Nat) : Memory → Nat → List Bool → Memory
  | m, _, [] => m
  | m, a, v :: rest =>
    match landingCell n a with
    | some c => Memory.writeStray n (Memory.write m c v) (a + 1) rest
    | none => Memory.writeStray n m (a + 1) rest

/-- `BITBUF[a]`: what was last written there, or the unspecified power-on bit (R19, R23). -/
def Memory.bit (m : Memory) (a : Nat) : Bool := (Memory.find m a).getD (Config.powerOnBit a)

/-- `MemRead(a, n)` (R7). -/
def Memory.range (m : Memory) : Nat → Nat → List Bool
  | _, 0 => []
  | a, n + 1 => Memory.bit m a :: Memory.range m (a + 1) n

/-- The raw bits from the cursor to LEN: all that the step at this cursor can read (R33). -/
def rawStream (s : State) : List Bool :=
  Memory.range s.bitbuf s.cursor.toNat (s.len.toNat - s.cursor.toNat)

/-- `DEINTERLEAVE`: the logical stream at the cursor (R34, R68). -/
def logicalStream (s : State) : List Bool := deinterleave (rawStream s)

/-! ### Result registers (R10, R11) -/

/-- `F[name]`, `none` when its valid bit is 0. -/
def Readings.get (r : Readings) : Field → Option Word
  | .tempf => r.tempf
  | .humidity => r.humidity
  | .dewptf => r.dewptf
  | .temp2f => r.temp2f
  | .indoortempf => r.indoortempf
  | .indoorhumidity => r.indoorhumidity
  | .baromin => r.baromin
  | .dailyrainin => r.dailyrainin
  | .windspeedmph => r.windspeedmph
  | .windgustmph => r.windgustmph
  | .winddir => r.winddir

/-- `F[name] <- v`: the value and its valid bit (R11). -/
def Readings.set (r : Readings) (f : Field) (v : Word) : Readings :=
  match f with
  | .tempf => { r with tempf := some v }
  | .humidity => { r with humidity := some v }
  | .dewptf => { r with dewptf := some v }
  | .temp2f => { r with temp2f := some v }
  | .indoortempf => { r with indoortempf := some v }
  | .indoorhumidity => { r with indoorhumidity := some v }
  | .baromin => { r with baromin := some v }
  | .dailyrainin => { r with dailyrainin := some v }
  | .windspeedmph => { r with windspeedmph := some v }
  | .windgustmph => { r with windgustmph := some v }
  | .winddir => { r with winddir := some v }

/-- The register of number `n` (R10); numbers 11 to 15 name none (R18). -/
def fieldOfNumber (n : BitVec 4) : Option Field :=
  match n.toNat with
  | 0 => some .tempf
  | 1 => some .humidity
  | 2 => some .dewptf
  | 3 => some .temp2f
  | 4 => some .indoortempf
  | 5 => some .indoorhumidity
  | 6 => some .baromin
  | 7 => some .dailyrainin
  | 8 => some .windspeedmph
  | 9 => some .windgustmph
  | 10 => some .winddir
  | _ => none

/-- What an extractor yields: names with integer values, in order (R120). -/
abbrev Fragment := List (Field × Int)

/-- `COMMIT(frag)` on the reading map: each value as `sext_32`, overwriting (R11, R90, R128). -/
def mergeFragment (r : Readings) (frag : Fragment) : Readings :=
  frag.foldl (fun acc p => Readings.set acc p.1 (BitVec.ofInt 32 p.2)) r

/-- `COMMIT(frag)` (R90): the only writes of an attempt to the result registers. -/
def commit (s : State) (frag : Fragment) : State := { s with readings := mergeFragment s.readings frag }

/-! ### The cursor, the DIAG port, the outcome of a step -/

/-- `ADVANCE`: `cursor <- cursor + 1` (R69). This is also what follows a failing outcome, its "return" (R158). -/
def advance (s : State) : State := { s with cursor := s.cursor + 1#32 }

/-- A DIAG record is presented when `CTRL.VERBOSE = 1`, after the earlier ones (R22, R91). -/
def present (s : State) (r : DiagRecord) : State :=
  if s.verbose then { s with diag := s.diag ++ [r] } else s

/-- `raise <Outcome>(info)` (R7, R157, R158): nothing is saved, no result register is written, the record is
presented and the cursor advances. Every outcome that ends an attempt without a commit goes through here. -/
def raiseOutcome (s : State) (r : DiagRecord) : State := advance (present s r)

/-- The end of a DECODED attempt: commit, record, advance (R80, R90, R91). -/
def decodedOutcome (s : State) (r : DiagRecord) (frag : Fragment) : State :=
  advance (present (commit s frag) r)

/-- The outcome codes of R150. -/
def outcomeCode : AttemptOutcome → BitVec 3
  | .decoded => 0#3
  | .unknownSensor => 1#3
  | .noPreamble => 2#3
  | .badSync => 3#3
  | .truncated => 4#3
  | .checksumMismatch => 5#3

/-- `CONSUMED` of a valid packet: `(ds + 16) * 2` raw bits (R88). -/
def consumedLength (ds : Nat) : Word := BitVec.ofNat 32 ((ds + 16) * 2)

/-- BAD_SYNC (R81, R152). -/
def badSyncRecord (s : State) (n : Nibble) : DiagRecord :=
  { offset := s.cursor, L := BitVec.ofNat 32 (logicalLength s), outcome := .badSync, sensorId := none,
    ds := none, consumed := 0#32, header := none, info := .badSync n }

/-- TRUNCATED before the id is known (R81, R82, R153). -/
def truncatedRecord (s : State) (stage : Stage) : DiagRecord :=
  { offset := s.cursor, L := BitVec.ofNat 32 (logicalLength s), outcome := .truncated, sensorId := none,
    ds := none, consumed := 0#32, header := none, info := .truncated stage }

/-- TRUNCATED at stage body (R84, R91). -/
def truncatedBodyRecord (s : State) (id : BitVec 16) (ds : Nat) : DiagRecord :=
  { offset := s.cursor, L := BitVec.ofNat 32 (logicalLength s), outcome := .truncated, sensorId := some id,
    ds := some (BitVec.ofNat 32 ds), consumed := 0#32, header := none, info := .truncated .body }

/-- CHECKSUM_MISMATCH (R86, R91, R154). -/
def mismatchRecord (s : State) (id : BitVec 16) (ds : Nat) (ccs ocs : Check) : DiagRecord :=
  { offset := s.cursor, L := BitVec.ofNat 32 (logicalLength s), outcome := .checksumMismatch,
    sensorId := some id, ds := some (BitVec.ofNat 32 ds), consumed := 0#32, header := none,
    info := .checksumMismatch ccs.low ccs.high ocs.low ocs.high }

/-- UNKNOWN_SENSOR (R91, R126, R155). -/
def unknownRecord (s : State) (id : BitVec 16) (ds : Nat) : DiagRecord :=
  { offset := s.cursor, L := BitVec.ofNat 32 (logicalLength s), outcome := .unknownSensor, sensorId := some id,
    ds := some (BitVec.ofNat 32 ds), consumed := consumedLength ds, header := none, info := .none }

/-- DECODED (R89, R91). -/
def decodedRecord (s : State) (id : BitVec 16) (ds : Nat) (h : Header) (info : DiagInfo) : DiagRecord :=
  { offset := s.cursor, L := BitVec.ofNat 32 (logicalLength s), outcome := .decoded, sensorId := some id,
    ds := some (BitVec.ofNat 32 ds), consumed := consumedLength ds, header := some h, info := info }

/-! ### The decode attempt (R80) -/

/-- BOUNDS, CHECKSUM, CSCOMPARE and COMMIT for a packet of a known type, in this order (R84 to R86, R90). `summed`
is the checksummed range, `ocs` the observed checksum. -/
def packetAttempt (s : State) (t : SensorType) (summed : List Nibble) (ocs : Check) (h : Header)
    (frag : Fragment) (info : DiagInfo) : State :=
  if logicalLength s < sensorTypeDs t + 8 then
    raiseOutcome s (truncatedBodyRecord s (sensorTypeId t) (sensorTypeDs t))
  else if ocs = checksum summed then
    decodedOutcome s (decodedRecord s (sensorTypeId t) (sensorTypeDs t) h info) frag
  else raiseOutcome s (mismatchRecord s (sensorTypeId t) (sensorTypeDs t) (checksum summed) ocs)

/-- The same steps for an unknown id, whose `ds` is `L - 16` and whose fragment is empty (R83, R126). -/
def unknownAttempt (s : State) (id : BitVec 16) (l : List Bool) : State :=
  if logicalLength s < logicalLength s - 16 + 8 then
    raiseOutcome s (truncatedBodyRecord s id (logicalLength s - 16))
  else if checkOf l (logicalLength s - 16) = checksum (checksummedNibbles l (logicalLength s - 16)) then
    raiseOutcome s (unknownRecord s id (logicalLength s - 16))
  else
    raiseOutcome s (mismatchRecord s id (logicalLength s - 16)
      (checksum (checksummedNibbles l (logicalLength s - 16))) (checkOf l (logicalLength s - 16)))

/-! ### Extractors: fragments and informational values (R120 to R127) -/

/-- `X_INDOOR` (R121). -/
def indoorFragment (d : IndoorData) : Fragment :=
  [(.indoortempf, c2f (tempTenths d.t0 d.t1 d.t2 d.sg)), (.indoorhumidity, (bcd2 d.h0 d.h1 : Int)),
    (.baromin, mbar2inhg (bcd2 d.b0 d.b1 + 856))]

/-- `X_RAIN` (R122). -/
def rainFragment (d : RainData) : Fragment := [(.dailyrainin, rainInches d.n0 d.n1 d.n2 d.n3 d.n4)]

/-- `X_WIND` (R123). -/
def windFragment (d : WindData) : Fragment :=
  [(.winddir, wdir d.w0 d.w1 d.w2), (.windgustmph, ms2mph (dec3 d.g0 d.g1 d.g2)),
    (.windspeedmph, ms2mph (dec3 d.a0 d.a1 d.a2))]

/-- `X_OUT2` (R124). -/
def out2Fragment (d : Out2Data) : Fragment := [(.temp2f, c2f (tempTenths d.t0 d.t1 d.t2 d.sg))]

/-- `X_OUT1` (R125): no dew point at humidity 0. -/
def out1Fragment (d : Out1Data) : Fragment :=
  [(.tempf, c2f (tempTenths d.t0 d.t1 d.t2 d.sg)), (.humidity, (bcd2 d.h0 d.h1 : Int))] ++
    if 1 ≤ bcd2 d.h0 d.h1 then [(.dewptf, dewpt (tempTenths d.t0 d.t1 d.t2 d.sg) (bcd2 d.h0 d.h1))] else []

/-- R121. -/
def indoorInfo (d : IndoorData) : DiagInfo := .indoor d.cf d.fc

/-- R122. -/
def rainInfo (d : RainData) : DiagInfo := .rain (BitVec.ofInt 32 (mm2in10 (dec3 d.r0 d.r1 d.r2)))

/-- R124. -/
def out2Info (d : Out2Data) : DiagInfo := .out2 (BitVec.ofNat 32 (bcd2 d.h0 d.h1))

/-- R125: bit 3 of the battery nibble, of no stated polarity. -/
def out1Info (d : Out1Data) : DiagInfo := .out1 (d.bt.getLsbD 3)

/-! ### The stages of `DECODE` read from the stream (R80 to R83) -/

/-- DISPATCH and what follows it, on the logical stream `l` of the attempt (R80, R83). -/
def dispatchStage (s : State) (l : List Bool) : State :=
  match dispatch (sensorId l) with
  | some .indoor =>
    packetAttempt s .indoor (checksummedNibbles l 96) (checkOf l 96) (headerOf l)
      (indoorFragment (indoorDataOf l)) (indoorInfo (indoorDataOf l))
  | some .rain =>
    packetAttempt s .rain (checksummedNibbles l 84) (checkOf l 84) (headerOf l)
      (rainFragment (rainDataOf l)) (rainInfo (rainDataOf l))
  | some .wind =>
    packetAttempt s .wind (checksummedNibbles l 88) (checkOf l 88) (headerOf l)
      (windFragment (windDataOf l)) .none
  | some .out2 =>
    packetAttempt s .out2 (checksummedNibbles l 80) (checkOf l 80) (headerOf l)
      (out2Fragment (out2DataOf l)) (out2Info (out2DataOf l))
  | some .out1 =>
    packetAttempt s .out1 (checksummedNibbles l 80) (checkOf l 80) (headerOf l)
      (out1Fragment (out1DataOf l)) (out1Info (out1DataOf l))
  | none => unknownAttempt s (sensorId l) l

/-- IDPARSE and what follows it (R82). -/
def idStage (s : State) (l : List Bool) : State :=
  if logicalLength s < 36 then raiseOutcome s (truncatedRecord s .id) else dispatchStage s l

/-- SYNC and what follows it: the whole of `DECODE(i, L)` (R80, R81). -/
def syncStage (s : State) (l : List Bool) : State :=
  if logicalLength s < 20 then raiseOutcome s (truncatedRecord s .sync)
  else if nib l 16 = 0xA#4 then idStage s l
  else raiseOutcome s (badSyncRecord s (nib l 16))

/-! ### The scan loop and the host's side -/

/-- NO_PREAMBLE: no attempt, no record, the cursor advances (R67, R69). -/
def noPreambleOutcome (s : State) : State := advance s

/-- The exit step: BUSY clears, DONE sets, the rest stays (R65, R70). -/
def finishScan (s : State) : State := { s with phase := .done }

/-- The loop test `cursor + 32 < LEN`, without wrap-around (R65, D29). -/
def scanGoesOn (s : State) : Bool := decide (s.cursor.toNat + 32 < s.len.toNat)

/-- The host's next slot is taken. -/
def takeSlot (s : State) : State := { s with hostPort := s.hostPort.tail }

/-- A register read returns `v` to the host. -/
def answer (s : State) (v : Option Word) : State := { s with readPort := v }

/-- A refused result read returns an unspecified value (R146). -/
def answerUnspecified (s : State) : State :=
  { s with readPort := some (Config.unspecifiedRead s.freeUses), freeUses := s.freeUses + 1 }

/-- A host access that is no row of the opcode table: a reserved read returns 0, any other write is ignored
(R18, R146). -/
def unmappedAccess (s : State) : DecodeError → State
  | .noPreamble => s
  | .reservedRead _ => answer s (some 0#32)
  | .ignoredWrite _ => s

/-- The effect of START, all at once (R141, R172). -/
def startScan (s : State) : State :=
  { s with phase := .busy, cursor := 0#32, readings := Readings.empty }

/-- `CTRL.VERBOSE` is written (R17, R145). -/
def writeVerbose (s : State) (v : Bool) : State := { s with verbose := v }

/-- Soft reset: the reset state of R23, BITBUF and the host's side kept (R171). -/
def softReset (s : State) : State :=
  { s with phase := .idle, verbose := false, len := 0#32, cursor := 0#32, readings := Readings.empty,
           diag := [] }

/-- What LEN holds after a LEN write: a value above MAXLEN is refused and the old one kept (R18, R140). -/
def lenAfterWrite (old : Word) : Option Word → Word
  | none => old
  | some v => if v.toNat ≤ Config.maxLen then v else old

/-- The BITBUF and LEN writes of a LOAD (R140). -/
def loadBits (s : State) (base : Word) (bits : List Bool) (len : Option Word) : State :=
  { s with bitbuf := Memory.writeRun s.bitbuf base.toNat bits, len := lenAfterWrite s.len len }

/-- A LOAD that runs past the last cell: the LEN write as always, and each bit where it lands (R7, R19, R160; log
entry 4). -/
def loadBeyond (s : State) (base : Word) (bits : List Bool) (len : Option Word) : State :=
  { s with bitbuf := Memory.writeStray s.freeUses s.bitbuf base.toNat bits, len := lenAfterWrite s.len len,
           freeUses := s.freeUses + 1 }

/-- Every cell a run writes exists; an empty run writes none (R19). -/
def runExists (base : Word) (bits : List Bool) : Bool :=
  bits.isEmpty || decide (base.toNat + bits.length ≤ Config.maxLen)

/-- The code stands where the next step fetches: a stream in BITBUF from address 0 under a busy scan, or a host
access in the next slot. -/
def placeCode (s : State) : Code → State
  | .stream raw =>
    { s with phase := .busy, cursor := 0#32, len := BitVec.ofNat 32 raw.length,
             bitbuf := Memory.writeRun s.bitbuf 0 raw, hostPort := [] }
  | .access a => { s with hostPort := .access a :: s.hostPort }

/-! ### Presentation of informational values (R48, R82, R127) -/

/-- The text of a comfort code; `none` for a code printed as its hex literal, whose spelling the spec does not
give (R127, U12). -/
def comfortText (n : Nibble) : Option String :=
  if n = 0x0#4 then some "normal"
  else if n = 0x4#4 then some "comfortable"
  else if n = 0x8#4 then some "dry"
  else if n = 0xC#4 then some "wet"
  else none

/-- The text of a forecast code, as `comfortText` (R127). -/
def forecastText (n : Nibble) : Option String :=
  if n = 0x2#4 then some "cloudy"
  else if n = 0x3#4 then some "rainy"
  else if n = 0x6#4 then some "partly cloudy"
  else if n = 0xC#4 then some "sunny"
  else none

/-- A nibble as a lower-case hex digit. -/
def hexDigit (n : Nibble) : Char := "0123456789abcdef".toList.getD n.toNat '0'

/-- A sensor id as the "4-hex-digit lowercase string" (R48, R82). -/
def idText (id : BitVec 16) : String := String.ofList ((idNibbles id).map hexDigit)

end Sys2Proof.Machine
end

