-- ==== Sys2Proof/Machine/HostOps.lean ====
section
/-! DEFINITION. The meanings of the host operations (R140 to R146). While BUSY a refused write has no effect and a
refused read returns an unspecified value (R146). -/

namespace Sys2Proof.Machine

/-- LOAD (R140). No LOAD stops the block (R160): one that runs past the last cell writes the cells there are. -/
def execLoad (base : Word) (bits : List Bool) (len : Option Word) (s : State) :
    Host.Outcome State Fault Refusal :=
  if s.phase = .busy then .next s
  else if runExists base bits then .next (loadBits s base bits len)
  else .next (loadBeyond s base bits len)

/-- START (R141): VERBOSE takes its bit of the same write first (R17). -/
def execStart (verbose : Bool) (s : State) : Host.Outcome State Fault Refusal :=
  if s.phase = .busy then .next s else .next (startScan (writeVerbose s verbose))

/-- SET_VERBOSE (R145). -/
def execSetVerbose (verbose : Bool) (s : State) : Host.Outcome State Fault Refusal :=
  if s.phase = .busy then .next s else .next (writeVerbose s verbose)

/-- SRST (R144): allowed at any time, including BUSY. -/
def execSrst (s : State) : Host.Outcome State Fault Refusal := .next (softReset s)

/-- READ_F (R142): a reserved number reads 0 at any time (R18); a register not in the map reads as `none`. -/
def execReadF (n : BitVec 4) (s : State) : Host.Outcome State Fault Refusal :=
  match fieldOfNumber n with
  | none => .next (answer s (some 0#32))
  | some f =>
    if s.phase = .busy then .next (answerUnspecified s) else .next (answer s (Readings.get s.readings f))

/-- READ_VALID (R142). -/
def execReadValid (s : State) : Host.Outcome State Fault Refusal :=
  if s.phase = .busy then .next (answerUnspecified s) else .next (answer s (some (validWord s.readings)))

/-- READ_STATUS (R143). -/
def execReadStatus (s : State) : Host.Outcome State Fault Refusal :=
  .next (answer s (some (statusWord s.phase)))

/-- READ_CURSOR (R143). -/
def execReadCursor (s : State) : Host.Outcome State Fault Refusal := .next (answer s (some s.cursor))

/-- READ_LEN (R143). -/
def execReadLen (s : State) : Host.Outcome State Fault Refusal := .next (answer s (some s.len))

/-- READ_CTRL (R143). -/
def execReadCtrl (s : State) : Host.Outcome State Fault Refusal :=
  .next (answer s (some (ctrlWord s.verbose)))

end Sys2Proof.Machine
end

