-- ==== Sys2Proof/Machine/Packets.lean ====
section
/-! DEFINITION. The meanings of the six packet rows: the decode attempt at the cursor from BOUNDS on, over the
packet's own nibbles. The cursor advances in every case (R69). -/

namespace Sys2Proof.Machine

/-- INDOOR (R121). -/
def execIndoor (h : Header) (d : IndoorData) (c : Check) (s : State) : Host.Outcome State Fault Refusal :=
  .next (packetAttempt s .indoor (summedNibbles (sensorTypeId .indoor) h (indoorNibbles d)) c h
    (indoorFragment d) (indoorInfo d))

/-- RAIN (R122). -/
def execRain (h : Header) (d : RainData) (c : Check) (s : State) : Host.Outcome State Fault Refusal :=
  .next (packetAttempt s .rain (summedNibbles (sensorTypeId .rain) h (rainNibbles d)) c h
    (rainFragment d) (rainInfo d))

/-- WIND (R123). -/
def execWind (h : Header) (d : WindData) (c : Check) (s : State) : Host.Outcome State Fault Refusal :=
  .next (packetAttempt s .wind (summedNibbles (sensorTypeId .wind) h (windNibbles d)) c h
    (windFragment d) .none)

/-- OUT2 (R124). -/
def execOut2 (h : Header) (d : Out2Data) (c : Check) (s : State) : Host.Outcome State Fault Refusal :=
  .next (packetAttempt s .out2 (summedNibbles (sensorTypeId .out2) h (out2Nibbles d)) c h
    (out2Fragment d) (out2Info d))

/-- OUT1 (R125). -/
def execOut1 (h : Header) (d : Out1Data) (c : Check) (s : State) : Host.Outcome State Fault Refusal :=
  .next (packetAttempt s .out1 (summedNibbles (sensorTypeId .out1) h (out1Nibbles d)) c h
    (out1Fragment d) (out1Info d))

/-- UNK (R126): the checksum over `[20, L - 16)` decides between UNKNOWN_SENSOR and CHECKSUM_MISMATCH; nothing
is written either way. -/
def execUnk (id : BitVec 16) (tail : List Bool) (s : State) : Host.Outcome State Fault Refusal :=
  .next (unknownAttempt s id (unkBits id tail))

end Sys2Proof.Machine
end

