-- ==== Sys2Proof/Machine/Scanner.lean ====
section
/-! DEFINITION. The meanings of the two scanner rows. Each runs the attempt at the cursor from its own stage on,
reading the stream from BITBUF. -/

namespace Sys2Proof.Machine

/-- PREAMBLE (R66): the window matched, so DECODE runs from SYNC on (R65, R80, R81). The decoder gives this row
where SYNC then raises TRUNCATED or BAD_SYNC. -/
def execPreamble (s : State) : Host.Outcome State Fault Refusal := .next (syncStage s (logicalStream s))

/-- SYNC (R81): the frame matched, so DECODE goes on with IDPARSE (R82). The decoder gives this row where
IDPARSE then raises TRUNCATED. -/
def execSync (s : State) : Host.Outcome State Fault Refusal := .next (idStage s (logicalStream s))

end Sys2Proof.Machine
end

