-- ==== Sys2Proof/Machine/Dispatch.lean ====
section
/-! DEFINITION. One arm per instruction: a direct call of its meaning. -/

namespace Sys2Proof.Machine

def exec (i : Instr) (s : State) : Host.Outcome State Fault Refusal :=
  match i with
  | .preamble => Sys2Proof.Machine.execPreamble s
  | .sync => Sys2Proof.Machine.execSync s
  | .indoor h d c => Sys2Proof.Machine.execIndoor h d c s
  | .rain h d c => Sys2Proof.Machine.execRain h d c s
  | .wind h d c => Sys2Proof.Machine.execWind h d c s
  | .out2 h d c => Sys2Proof.Machine.execOut2 h d c s
  | .out1 h d c => Sys2Proof.Machine.execOut1 h d c s
  | .unk id tail => Sys2Proof.Machine.execUnk id tail s
  | .load base bits len => Sys2Proof.Machine.execLoad base bits len s
  | .start verbose => Sys2Proof.Machine.execStart verbose s
  | .setVerbose verbose => Sys2Proof.Machine.execSetVerbose verbose s
  | .srst => Sys2Proof.Machine.execSrst s
  | .readF n => Sys2Proof.Machine.execReadF n s
  | .readValid => Sys2Proof.Machine.execReadValid s
  | .readStatus => Sys2Proof.Machine.execReadStatus s
  | .readCursor => Sys2Proof.Machine.execReadCursor s
  | .readLen => Sys2Proof.Machine.execReadLen s
  | .readCtrl => Sys2Proof.Machine.execReadCtrl s

end Sys2Proof.Machine
end

