-- ==== Sys2Proof/Machine/Sequencer.lean ====
section
/-! DEFINITION. What a step does: one host access, or one scan step of a busy block (R65), or nothing in a
quiescent phase (R166, R170). -/

namespace Sys2Proof.Machine

/-- The host's access is decoded and performed; an access that is no row of the table has the effect R18 gives
it. -/
def hostStep (a : HostAccess) (s : State) : Host.Outcome State Fault Refusal :=
  match decode (.access a) with
  | .ok i => exec i s
  | .error e => .next (unmappedAccess s e)

/-- `SCAN_STEP` (R65): the loop test, then the instruction the stream at the cursor decodes to; a window that is
no preamble ends NO_PREAMBLE (R67). -/
def scanStep (s : State) : Host.Outcome State Fault Refusal :=
  if scanGoesOn s then
    match decode (.stream (rawStream s)) with
    | .ok i => exec i s
    | .error _ => .next (noPreambleOutcome s)
  else .next (finishScan s)

/-- The block takes scan steps while BUSY and none otherwise (R166, R170). -/
def blockStep (s : State) : Host.Outcome State Fault Refusal :=
  if s.phase = .busy then scanStep s else .next s

/-- One step: the host's slot comes first; in a quiet slot, or when the host has nothing more to do, the block
acts. -/
def stepOnce (s : State) : Host.Outcome State Fault Refusal :=
  match s.hostPort with
  | [] => blockStep s
  | .quiet :: _ => blockStep (takeSlot s)
  | .access a :: _ => hostStep a (takeSlot s)

end Sys2Proof.Machine
end

