-- ==== Sys2Proof/Safety.lean ====
section
/-! DEFINITION. What counts as a good state and as a run, in the terms the statements use. -/

namespace Sys2Proof.Machine

/-- The invariant of the block: BITBUF is canonical and lists existing cells only (R19); LEN is legal (R18); the
cursor never passes the loop bound of its scan and fits (R14); an idle block has an empty map and cursor 0
(R16, R23). -/
def Inv (s : State) : Prop :=
  Memory.wf s.bitbuf = true ∧
  (∀ cell ∈ s.bitbuf, cell.1 < Config.maxLen) ∧
  s.len.toNat ≤ Config.maxLen ∧
  s.cursor.toNat ≤ Config.maxLen - 32 ∧
  (s.phase = .busy → s.cursor.toNat ≤ s.len.toNat - 32) ∧
  (s.phase = .idle → s.cursor = 0#32 ∧ s.readings = Readings.empty)

/-- The host leaves the coming step to the block: it has nothing more to do, or its next slot is `quiet` (log
entry 1). -/
def HostQuiet (s : State) : Prop := s.hostPort = [] ∨ ∃ rest, s.hostPort = .quiet :: rest

/-- A register that is absent from the map or holds a value of `[lo, hi]`. -/
def InRange (lo hi : Int) : Option Word → Prop
  | none => True
  | some v => lo ≤ v.toInt ∧ v.toInt ≤ hi

/-- The value ranges of R12, for every register but `dewptf`, whose range R12 gives for the reference `DEWPT`
only. -/
def ReadingsInRange (r : Readings) : Prop :=
  InRange (-26770) 33170 r.tempf ∧
  InRange (-26770) 33170 r.temp2f ∧
  InRange (-26770) 33170 r.indoortempf ∧
  InRange 0 165 r.humidity ∧
  InRange 0 165 r.indoorhumidity ∧
  InRange 2528 3015 r.baromin ∧
  InRange 0 65669 r.dailyrainin ∧
  InRange 0 37245 r.windspeedmph ∧
  InRange 0 37245 r.windgustmph ∧
  InRange 0 167 r.winddir

/-- Two states that differ, if at all, in VERBOSE and in the DIAG records only. -/
def SameButDiag (s t : State) : Prop :=
  s.phase = t.phase ∧ s.len = t.len ∧ s.cursor = t.cursor ∧ s.readings = t.readings ∧ s.bitbuf = t.bitbuf ∧
  s.hostPort = t.hostPort ∧ s.readPort = t.readPort ∧ s.freeUses = t.freeUses

/-- The DIAG port after an attempt with record `r` (R22). -/
def diagAfter (s : State) (r : DiagRecord) : List DiagRecord :=
  if s.verbose = true then s.diag ++ [r] else s.diag

/-- The number `n` of a result register (R10). -/
def fieldNumber : Field → BitVec 4
  | .tempf => 0
  | .humidity => 1
  | .dewptf => 2
  | .temp2f => 3
  | .indoortempf => 4
  | .indoorhumidity => 5
  | .baromin => 6
  | .dailyrainin => 7
  | .windspeedmph => 8
  | .windgustmph => 9
  | .winddir => 10

/-- The registers a packet row may write: the last column of the table of R10. The two scanner rows may go on
to any packet. -/
def mayWrite : Instr → Field → Bool
  | .preamble, _ => true
  | .sync, _ => true
  | .indoor _ _ _, f => decide (f = .indoortempf ∨ f = .indoorhumidity ∨ f = .baromin)
  | .rain _ _ _, f => decide (f = .dailyrainin)
  | .wind _ _ _, f => decide (f = .winddir ∨ f = .windgustmph ∨ f = .windspeedmph)
  | .out2 _ _ _, f => decide (f = .temp2f)
  | .out1 _ _ _, f => decide (f = .tempf ∨ f = .humidity ∨ f = .dewptf)
  | .unk _ _, _ => false
  | .load _ _ _, _ => false
  | .start _, _ => true
  | .setVerbose _, _ => false
  | .srst, _ => true
  | .readF _, _ => false
  | .readValid, _ => false
  | .readStatus, _ => false
  | .readCursor, _ => false
  | .readLen, _ => false
  | .readCtrl, _ => false

/-- The rows that a scan step runs, as against the host operations. -/
def packetSide : Instr → Bool
  | .preamble => true
  | .sync => true
  | .indoor _ _ _ => true
  | .rain _ _ _ => true
  | .wind _ _ _ => true
  | .out2 _ _ _ => true
  | .out1 _ _ _ => true
  | .unk _ _ => true
  | .load _ _ _ => false
  | .start _ => false
  | .setVerbose _ => false
  | .srst => false
  | .readF _ => false
  | .readValid => false
  | .readStatus => false
  | .readCursor => false
  | .readLen => false
  | .readCtrl => false

/-- What one cursor position contributes to the reading map (R71): the stream at the cursor is decoded, and a
packet that validates yields its fragment. -/
def contribution (s : State) : Fragment :=
  match decode (.stream (rawStream s)) with
  | .error _ => []
  | .ok (.indoor h d c) =>
    if logicalLength s < 104 ∨ c ≠ checksum (summedNibbles 0x5D60#16 h (indoorNibbles d)) then []
    else indoorFragment d
  | .ok (.rain h d c) =>
    if logicalLength s < 92 ∨ c ≠ checksum (summedNibbles 0x2D10#16 h (rainNibbles d)) then []
    else rainFragment d
  | .ok (.wind h d c) =>
    if logicalLength s < 96 ∨ c ≠ checksum (summedNibbles 0x3D00#16 h (windNibbles d)) then []
    else windFragment d
  | .ok (.out2 h d c) =>
    if logicalLength s < 88 ∨ c ≠ checksum (summedNibbles 0x1D20#16 h (out2Nibbles d)) then []
    else out2Fragment d
  | .ok (.out1 h d c) =>
    if logicalLength s < 88 ∨ c ≠ checksum (summedNibbles 0x1D30#16 h (out1Nibbles d)) then []
    else out1Fragment d
  | .ok .preamble => []
  | .ok .sync => []
  | .ok (.unk _ _) => []
  | .ok (.load _ _ _) => []
  | .ok (.start _) => []
  | .ok (.setVerbose _) => []
  | .ok .srst => []
  | .ok (.readF _) => []
  | .ok .readValid => []
  | .ok .readStatus => []
  | .ok .readCursor => []
  | .ok .readLen => []
  | .ok .readCtrl => []

/-- The same block with the cursor at raw address `i`. -/
def atCursor (s : State) (i : Nat) : State := { s with cursor := BitVec.ofNat 32 i }

/-- The fold of R71 over the first `n` cursor positions: later writes replace earlier ones. -/
def foldScan (s : State) : Nat → Readings
  | 0 => Readings.empty
  | n + 1 => mergeFragment (foldScan s n) (contribution (atCursor s n))

end Sys2Proof.Machine
end

