-- ==== Sys2Proof/Certificates/Slice0/Obligations.lean ====
section
/-! DEFINITION. The statements for the provers. Three conventions of the model run through them and are no rule of the
spec: the host's coming moves in `hostPort` and the value of its last read in `readPort` (log entries 1 and 15),
the DIAG port as the list of its records in `diag` (log entry 14), and `freeUses`, the count of free values used (log
entry 8). A clause that says what these fields hold is the model's choice. -/

open Sys2Proof Sys2Proof.Machine

/-! ### Encodings -/

/-- Decoding an encoded well-formed instruction gives it back, for every row and every operand (R46, R48, R52, R54
to R59, R63 for the packets; R17, R18, R140 to R145 for the host operations). The model's choice: the partial
forms of LOAD (log entry 18). -/
def Obligations.DecodeEncode : Prop :=
  ∀ i : Instr, i.wellFormed = true → decode (encode i) = .ok i

/-- A packet of a known type whose preamble to checksum stand at the cursor is decoded to its fields, whatever
raw bits follow: the postamble is never read and may be absent (R46, R61, R84). -/
def Obligations.PacketDecodesWhateverFollows : Prop :=
  (∀ h d c rest, decode (.stream (enc (frameNibbles ++ summedNibbles 0x5D60#16 h (indoorNibbles d)
      ++ [c.low, c.high]) ++ rest)) = .ok (.indoor h d c)) ∧
  (∀ h d c rest, decode (.stream (enc (frameNibbles ++ summedNibbles 0x2D10#16 h (rainNibbles d)
      ++ [c.low, c.high]) ++ rest)) = .ok (.rain h d c)) ∧
  (∀ h d c rest, decode (.stream (enc (frameNibbles ++ summedNibbles 0x3D00#16 h (windNibbles d)
      ++ [c.low, c.high]) ++ rest)) = .ok (.wind h d c)) ∧
  (∀ h d c rest, decode (.stream (enc (frameNibbles ++ summedNibbles 0x1D20#16 h (out2Nibbles d)
      ++ [c.low, c.high]) ++ rest)) = .ok (.out2 h d c)) ∧
  (∀ h d c rest, decode (.stream (enc (frameNibbles ++ summedNibbles 0x1D30#16 h (out1Nibbles d)
      ++ [c.low, c.high]) ++ rest)) = .ok (.out1 h d c))

/-- A few words of the opcode table and of the spec's vectors decode to what they stand for (R62, V-HO8). Which
word space a word of a given bit count belongs to is the model's choice (log entry 3). -/
def Obligations.WordsDecode : Prop :=
  decodeTableWord 32 0x55555555 = some .preamble ∧
  decodeTableWord 24 0xAFFFF = some .sync ∧
  decodeTableWord 40 0x06D5AFFFF
    = some (.indoor ⟨0, 0, 0, 0⟩ ⟨0, 0, 0, 0, 0, 0, 0, 0, 0, 0, 0⟩ ⟨0, 0⟩) ∧
  decodeTableWord 40 0x03D1AFFFF = some (.out1 ⟨0, 0, 0, 0⟩ ⟨0, 0, 0, 0, 0, 0, 0⟩ ⟨0, 0⟩) ∧
  decode (.access (.write 0x00 0x3)) = .ok (.start true) ∧
  decode (.access (.write 0x00 0x7)) = .ok .srst ∧
  decode (.access (.write 0x00 0xFFFFFFF8)) = .ok (.setVerbose false) ∧
  decode (.access (.read 0x1A)) = .ok (.readF 10)

/-- Whatever the stream at a cursor holds, the row it decodes to is a packet-side row with admissible operands: an
UNK row never carries a known id (R52, R62). The model's choice: that the row is the most specific that matches
(log entry 16). -/
def Obligations.StreamDecodesWellFormed : Prop :=
  ∀ (raw : List Bool) (i : Instr), decode (.stream raw) = .ok i → packetSide i = true ∧ i.wellFormed = true

/-- The preamble test accepts a stream exactly when its first 32 raw bits exist, the sixteen in-phase ones are 1
and the sixteen complement ones are 0; that is, when the window word RW is 0x55555555; and it looks at no bit
outside the window (R66). -/
def Obligations.PreambleTestExact : Prop :=
  ∀ raw : List Bool,
    (preambleTest raw = true ↔
      32 ≤ raw.length ∧ (∀ m < 16, raw[2 * m]? = some true) ∧ (∀ m < 16, raw[2 * m + 1]? = some false)) ∧
    (∀ RW : BitVec 32, (∀ k < 32, raw[k]? = some (RW.getLsbD k)) →
      (preambleTest raw = true ↔ RW = 0x55555555#32)) ∧
    (∀ other : List Bool, other.take 32 = raw.take 32 → preambleTest other = preambleTest raw)

/-- The logical stream of the attempt at the cursor: `L = (LEN - i + 1) >> 1` bits, bit `k` being
`BITBUF[i + 2k]`; `L >= 17` in every step the loop takes; and of the raw bits behind the preamble window only the
in-phase ones decide what is decoded and what the attempt then does (R34). -/
def Obligations.LogicalStreamView : Prop :=
  ∀ s : State,
    (logicalStream s).length = (s.len.toNat - s.cursor.toNat + 1) / 2 ∧
    (∀ k < (s.len.toNat - s.cursor.toNat + 1) / 2,
      (logicalStream s)[k]? = some (Memory.bit s.bitbuf (s.cursor.toNat + 2 * k))) ∧
    (s.cursor.toNat + 32 < s.len.toNat → 17 ≤ (s.len.toNat - s.cursor.toNat + 1) / 2) ∧
    (∀ m : Memory,
      (∀ k < 32, Memory.bit m (s.cursor.toNat + k) = Memory.bit s.bitbuf (s.cursor.toNat + k)) →
      (∀ k, Memory.bit m (s.cursor.toNat + 2 * k) = Memory.bit s.bitbuf (s.cursor.toNat + 2 * k)) →
      decode (.stream (rawStream { s with bitbuf := m })) = decode (.stream (rawStream s)) ∧
      syncStage { s with bitbuf := m } (logicalStream { s with bitbuf := m })
        = { syncStage s (logicalStream s) with bitbuf := m })

/-- Beyond the preamble window the complement-phase raw bits are never read: two buffers that agree on the window
and on the in-phase bits below LEN decode alike at the cursor (R34, R61, R68). -/
def Obligations.ComplementBitsIgnored : Prop :=
  ∀ s t : State, s.len = t.len → s.cursor = t.cursor →
    (∀ k < 32, Memory.bit s.bitbuf (s.cursor.toNat + k) = Memory.bit t.bitbuf (s.cursor.toNat + k)) →
    (∀ k, Memory.bit s.bitbuf (s.cursor.toNat + 2 * k) = Memory.bit t.bitbuf (s.cursor.toNat + 2 * k)) →
    decode (.stream (rawStream s)) = decode (.stream (rawStream t))

/-- No step of the block reads a raw address at or above LEN: a change of BITBUF there changes nothing but BITBUF
itself in what a step leaves in which the host is silent or passes its slot (R33; slots are log entry 1). -/
def Obligations.BeyondLenUnread : Prop :=
  ∀ (s : State) (m : Memory), HostQuiet s →
    (∀ a < s.len.toNat, Memory.bit m a = Memory.bit s.bitbuf a) →
    ∀ t, step s = .next t → step { s with bitbuf := m } = .next { t with bitbuf := m }

/-- Dispatch compares all 16 bits of the id with the five of the table, each with its `ds` (R52, R83). -/
def Obligations.DispatchTable : Prop :=
  ∀ id : BitVec 16,
    (∀ t, dispatch id = some t ↔ id = sensorTypeId t) ∧
    (dispatch id = none ↔ id ≠ 0x5D60#16 ∧ id ≠ 0x2D10#16 ∧ id ≠ 0x3D00#16 ∧ id ≠ 0x1D20#16 ∧ id ≠ 0x1D30#16) ∧
    (sensorTypeId .indoor = 0x5D60#16 ∧ sensorTypeDs .indoor = 96) ∧
    (sensorTypeId .rain = 0x2D10#16 ∧ sensorTypeDs .rain = 84) ∧
    (sensorTypeId .wind = 0x3D00#16 ∧ sensorTypeDs .wind = 88) ∧
    (sensorTypeId .out2 = 0x1D20#16 ∧ sensorTypeDs .out2 = 80) ∧
    (sensorTypeId .out1 = 0x1D30#16 ∧ sensorTypeDs .out1 = 80)

/-- A CTRL write: bit 2 wins over the others; else bit 0 starts with bit 1 as VERBOSE; else bit 1 alone is
written; no other bit matters (R17). -/
def Obligations.CtrlWriteOrder : Prop :=
  ∀ data : Word,
    (data.getLsbD 2 = true → decode (.access (.write 0x00 data)) = .ok .srst) ∧
    (data.getLsbD 2 = false → data.getLsbD 0 = true →
      decode (.access (.write 0x00 data)) = .ok (.start (data.getLsbD 1))) ∧
    (data.getLsbD 2 = false → data.getLsbD 0 = false →
      decode (.access (.write 0x00 data)) = .ok (.setVerbose (data.getLsbD 1)))

/-- Early re-detection: with `m >= 1` extra `10` pairs before a frame the window still matches, the row is
PREAMBLE, and the nibble in the sync place is 5, B, 7 for one, two, three pairs and F from four on: never A (R72
b). The model's choice: that the row of such a window is PREAMBLE (log entry 16). -/
def Obligations.EarlyRedetectionIsBadSync : Prop :=
  ∀ (m : Nat) (rest : List Bool), 1 ≤ m →
    decode (.stream ((List.replicate m [true, false]).flatten ++ enc frameNibbles ++ rest)) = .ok .preamble ∧
    nib (deinterleave ((List.replicate m [true, false]).flatten ++ enc frameNibbles ++ rest)) 16
      = (if m = 1 then 0x5#4 else if m = 2 then 0xB#4 else if m = 3 then 0x7#4 else 0xF#4)

/-! ### The step -/

/-- A pending host access that decodes is what the next step performs, in a busy phase too (R143, R144; that an
access takes a slot of `hostPort` and a whole step is the model's choice, log entry 1). -/
def Obligations.StepRunsHostAccess : Prop :=
  ∀ (s : State) (a : HostAccess) (rest : List HostSlot) (i : Instr),
    s.hostPort = .access a :: rest → decode (.access a) = .ok i →
    step s = exec i { s with hostPort := rest }

/-- A busy block whose host is silent, or passes its slot, runs the row that the stream at its cursor decodes to
(R65). The model's choice: that a quiet slot is consumed (log entry 1), and that the step runs one row, the most
specific that matches (log entry 16). -/
def Obligations.StepRunsDecodedPacket : Prop :=
  ∀ (s : State) (i : Instr), s.phase = .busy → s.cursor.toNat + 32 < s.len.toNat →
    decode (.stream (rawStream s)) = .ok i →
    (s.hostPort = [] → step s = exec i s) ∧
    (∀ rest, s.hostPort = .quiet :: rest → step s = exec i { s with hostPort := rest })

/-- An access to a number outside the register map: a read returns 0, a write is ignored, and so is a write to a
read-only register (R18, R146; that a write to a read-only register is ignored is log entry 9). That the access
stands in a slot and the value read in readPort is the model's choice (log entries 1 and 15). -/
def Obligations.StepOutsideRegisterMap : Prop :=
  ∀ (s : State) (rest : List HostSlot) (reg : BitVec 8),
    (s.hostPort = .access (.read reg) :: rest → 5 ≤ reg.toNat → (reg.toNat < 16 ∨ 26 < reg.toNat) →
      step s = .next { s with hostPort := rest, readPort := some 0#32 }) ∧
    (∀ data, s.hostPort = .access (.write reg data) :: rest → reg ≠ 0x00#8 → reg ≠ 0x02#8 →
      step s = .next { s with hostPort := rest })

/-- A failed preamble test ends the step: the cursor advances and nothing else of the block changes (R67). That a
quiet slot of the host, where there is one, is consumed is the model's choice (log entry 1). -/
def Obligations.StepNoPreamble : Prop :=
  ∀ s : State, s.phase = .busy → HostQuiet s → s.cursor.toNat + 32 < s.len.toNat →
    preambleTest (rawStream s) = false →
    step s = .next { s with hostPort := s.hostPort.tail, cursor := s.cursor + 1#32 }

/-- Every non-exit step of a scan, whatever the buffer holds, completes with the cursor one further and the block
still BUSY: no outcome stops or redirects the scan (R69, R73). That a quiet slot of the host, where there is one, is
consumed is the model's choice (log entry 1). -/
def Obligations.EveryScanStepAdvances : Prop :=
  ∀ s : State, s.phase = .busy → HostQuiet s → s.cursor.toNat + 32 < s.len.toNat →
    ∃ t, step s = .next t ∧ t.cursor = s.cursor + 1#32 ∧ t.phase = .busy ∧ t.len = s.len ∧
      t.hostPort = s.hostPort.tail

/-- The exit step: BUSY clears, DONE sets, everything else stays; the bound is taken without wrap-around
(R65, R70, D29). And outside BUSY the block takes no step (R166, R170). In both, that a quiet slot of the host, where
there is one, is consumed is the model's choice (log entry 1). -/
def Obligations.StepExitAndQuiescence : Prop :=
  ∀ s : State, HostQuiet s →
    (s.phase = .busy → s.len.toNat ≤ s.cursor.toNat + 32 →
      step s = .next { s with hostPort := s.hostPort.tail, phase := .done }) ∧
    (s.phase ≠ .busy → step s = .next { s with hostPort := s.hostPort.tail })

/-- Every row the stream at the cursor decodes to does exactly what the pseudocode of `DECODE(i, L)` does on the
stream read from BITBUF, followed by the cursor advance: the row's operands lose nothing (R65, R80 to R86, R156).
The model's choice: that one row, the most specific that matches, stands for the rest of the attempt (log entry
16). -/
def Obligations.RowsRefineDecode : Prop :=
  ∀ (s : State) (i : Instr), decode (.stream (rawStream s)) = .ok i →
    exec i s = .next (syncStage s (logicalStream s))

/-! ### The scanner rows -/

/-- PREAMBLE with fewer than 20 logical bits: TRUNCATED at stage sync (R81, R91). The model's choice: that
PREAMBLE and SYNC mean the rest of DECODE from their stage on (log entry 16). -/
def Obligations.PreambleTruncated : Prop :=
  ∀ s : State, logicalLength s < 20 →
    exec .preamble s = .next { s with
      cursor := s.cursor + 1#32
      diag := diagAfter s
        { offset := s.cursor, L := BitVec.ofNat 32 (logicalLength s), outcome := .truncated, sensorId := none,
          ds := none, consumed := 0#32, header := none, info := .truncated .sync } }

/-- PREAMBLE with a wrong nibble in the sync place: BAD_SYNC with the nibble read (R81, R91, R152). The model's
choice: that PREAMBLE and SYNC mean the rest of DECODE from their stage on (log entry 16). -/
def Obligations.PreambleBadSync : Prop :=
  ∀ s : State, 20 ≤ logicalLength s → nib (logicalStream s) 16 ≠ 0xA#4 →
    exec .preamble s = .next { s with
      cursor := s.cursor + 1#32
      diag := diagAfter s
        { offset := s.cursor, L := BitVec.ofNat 32 (logicalLength s), outcome := .badSync, sensorId := none,
          ds := none, consumed := 0#32, header := none, info := .badSync (nib (logicalStream s) 16) } }

/-- SYNC with fewer than 36 logical bits: TRUNCATED at stage id (R82, R91). The model's choice: that PREAMBLE and
SYNC mean the rest of DECODE from their stage on (log entry 16). -/
def Obligations.SyncTruncated : Prop :=
  ∀ s : State, logicalLength s < 36 →
    exec .sync s = .next { s with
      cursor := s.cursor + 1#32
      diag := diagAfter s
        { offset := s.cursor, L := BitVec.ofNat 32 (logicalLength s), outcome := .truncated, sensorId := none,
          ds := none, consumed := 0#32, header := none, info := .truncated .id } }

/-- A stage that does not raise hands over to the next: PREAMBLE with a good sync nibble does what SYNC does, and
SYNC on a framed stream with a whole id does what the packet's row does (R80). The model's choice: that PREAMBLE
and SYNC mean the rest of DECODE from their stage on (log entry 16). Where these hypotheses hold the decoder gives
neither row but a more specific one, and the rules alone do not say what exec of them does there. -/
def Obligations.StagesContinue : Prop :=
  ∀ s : State,
    (20 ≤ logicalLength s → nib (logicalStream s) 16 = 0xA#4 → exec .preamble s = exec .sync s) ∧
    (36 ≤ logicalLength s → preambleTest (rawStream s) = true → nib (logicalStream s) 16 = 0xA#4 →
      exec .sync s = exec (decodePacket (logicalStream s)) s)

/-! ### The packet rows -/

/-- INDOOR, decoded: the three registers, the record and the cursor; nothing else (R54, R90, R91, R107, R109,
R121). The place of the forecast nibble is what the spec marks as general knowledge (log entry 19). -/
def Obligations.IndoorDecoded : Prop :=
  ∀ (h : Header) (d : IndoorData) (s : State), 104 ≤ logicalLength s →
    exec (.indoor h d (checksum (summedNibbles 0x5D60#16 h (indoorNibbles d)))) s = .next { s with
      cursor := s.cursor + 1#32
      readings := { s.readings with
        indoortempf := some (BitVec.ofInt 32 (18 * ((if d.sg = 0#4 then 1 else -1)
          * ((100 * d.t2.toNat + 10 * d.t1.toNat + d.t0.toNat : Nat) : Int)) + 3200))
        indoorhumidity := some (BitVec.ofNat 32 (10 * d.h1.toNat + d.h0.toNat))
        baromin := some (BitVec.ofNat 32
          ((2 * ((10 * d.b1.toNat + d.b0.toNat + 856) * 1000000000000) + 338638866667) / (2 * 338638866667))) }
      diag := diagAfter s
        { offset := s.cursor, L := BitVec.ofNat 32 (logicalLength s), outcome := .decoded,
          sensorId := some 0x5D60#16, ds := some 96#32, consumed := 224#32, header := some h,
          info := .indoor d.cf d.fc } }

/-- RAIN, decoded (R55, R110, R111, R122). The weights of the total are the stated defaults (log entry 13). Its
32-bit rain rate is the model's choice (log entry 24). -/
def Obligations.RainDecoded : Prop :=
  ∀ (h : Header) (d : RainData) (s : State), 92 ≤ logicalLength s →
    exec (.rain h d (checksum (summedNibbles 0x2D10#16 h (rainNibbles d)))) s = .next { s with
      cursor := s.cursor + 1#32
      readings := { s.readings with
        dailyrainin := some (BitVec.ofNat 32
          ((2 * ((1000 * d.n4.toNat + 100 * d.n3.toNat + 10 * d.n2.toNat + d.n1.toNat + d.n0.toNat) * 500) + 127)
            / 254)) }
      diag := diagAfter s
        { offset := s.cursor, L := BitVec.ofNat 32 (logicalLength s), outcome := .decoded,
          sensorId := some 0x2D10#16, ds := some 84#32, consumed := 200#32, header := some h,
          info := .rain (BitVec.ofNat 32
            ((2 * ((100 * d.r2.toNat + 10 * d.r1.toNat + d.r0.toNat) * 50) + 127) / 254)) } }

/-- WIND, decoded: the direction by the implementation's tie rule, gust and average speed (R56, R108, R112, R123).
The weights of the direction are the stated defaults (log entry 13) and the tie rule is left open (log entry 6).
-/
def Obligations.WindDecoded : Prop :=
  ∀ (h : Header) (d : WindData) (s : State), 96 ≤ logicalLength s →
    exec (.wind h d (checksum (summedNibbles 0x3D00#16 h (windNibbles d)))) s = .next { s with
      cursor := s.cursor + 1#32
      readings := { s.readings with
        winddir := some (BitVec.ofInt 32
          (roundQ Config.roundTies ((100 * d.w2.toNat + 10 * d.w1.toNat + d.w0.toNat : Nat) : Int) 10))
        windgustmph := some (BitVec.ofNat 32
          ((2 * ((100 * d.g2.toNat + 10 * d.g1.toNat + d.g0.toNat) * 223694) + 10000) / 20000))
        windspeedmph := some (BitVec.ofNat 32
          ((2 * ((100 * d.a2.toNat + 10 * d.a1.toNat + d.a0.toNat) * 223694) + 10000) / 20000)) }
      diag := diagAfter s
        { offset := s.cursor, L := BitVec.ofNat 32 (logicalLength s), outcome := .decoded,
          sensorId := some 0x3D00#16, ds := some 88#32, consumed := 208#32, header := some h, info := .none } }

/-- OUT2, decoded: `temp2f` only (R57, R107, R124). The 32-bit humidity of the record is the model's choice (log
entry 24). -/
def Obligations.Out2Decoded : Prop :=
  ∀ (h : Header) (d : Out2Data) (s : State), 88 ≤ logicalLength s →
    exec (.out2 h d (checksum (summedNibbles 0x1D20#16 h (out2Nibbles d)))) s = .next { s with
      cursor := s.cursor + 1#32
      readings := { s.readings with
        temp2f := some (BitVec.ofInt 32 (18 * ((if d.sg = 0#4 then 1 else -1)
          * ((100 * d.t2.toNat + 10 * d.t1.toNat + d.t0.toNat : Nat) : Int)) + 3200)) }
      diag := diagAfter s
        { offset := s.cursor, L := BitVec.ofNat 32 (logicalLength s), outcome := .decoded,
          sensorId := some 0x1D20#16, ds := some 80#32, consumed := 192#32, header := some h,
          info := .out2 (BitVec.ofNat 32 (10 * d.h1.toNat + d.h0.toNat)) } }

/-- OUT1, decoded: temperature, humidity, and the dew point when the humidity is at least 1; at humidity 0 the
older `dewptf` stays (R58, R113, R125, D12). The value of DEWPT is left open (log entry 5). -/
def Obligations.Out1Decoded : Prop :=
  ∀ (h : Header) (d : Out1Data) (s : State) (t10 : Int) (hum : Nat), 88 ≤ logicalLength s →
    t10 = (if d.sg = 0#4 then 1 else -1) * ((100 * d.t2.toNat + 10 * d.t1.toNat + d.t0.toNat : Nat) : Int) →
    hum = 10 * d.h1.toNat + d.h0.toNat →
    exec (.out1 h d (checksum (summedNibbles 0x1D30#16 h (out1Nibbles d)))) s = .next { s with
      cursor := s.cursor + 1#32
      readings := { s.readings with
        tempf := some (BitVec.ofInt 32 (18 * t10 + 3200))
        humidity := some (BitVec.ofNat 32 hum)
        dewptf := if 1 ≤ hum then some (BitVec.ofInt 32 (dewpt t10 hum)) else s.readings.dewptf }
      diag := diagAfter s
        { offset := s.cursor, L := BitVec.ofNat 32 (logicalLength s), outcome := .decoded,
          sensorId := some 0x1D30#16, ds := some 80#32, consumed := 192#32, header := some h,
          info := .out1 (d.bt.getLsbD 3) } }

/-- A packet of a known type whose checksum would end past the stream: TRUNCATED at stage body, nothing written but
the record and the cursor (R84, R91, R153, R157). -/
def Obligations.KnownPacketTruncated : Prop :=
  ∀ (s : State) (h : Header) (c : Check),
    (∀ d, logicalLength s < 104 → exec (.indoor h d c) s = .next { s with
      cursor := s.cursor + 1#32, diag := diagAfter s (truncatedBodyRecord s 0x5D60#16 96) }) ∧
    (∀ d, logicalLength s < 92 → exec (.rain h d c) s = .next { s with
      cursor := s.cursor + 1#32, diag := diagAfter s (truncatedBodyRecord s 0x2D10#16 84) }) ∧
    (∀ d, logicalLength s < 96 → exec (.wind h d c) s = .next { s with
      cursor := s.cursor + 1#32, diag := diagAfter s (truncatedBodyRecord s 0x3D00#16 88) }) ∧
    (∀ d, logicalLength s < 88 → exec (.out2 h d c) s = .next { s with
      cursor := s.cursor + 1#32, diag := diagAfter s (truncatedBodyRecord s 0x1D20#16 80) }) ∧
    (∀ d, logicalLength s < 88 → exec (.out1 h d c) s = .next { s with
      cursor := s.cursor + 1#32, diag := diagAfter s (truncatedBodyRecord s 0x1D30#16 80) })

/-- A packet of a known type with a wrong checksum: CHECKSUM_MISMATCH with the four nibbles, nothing written but
the record and the cursor (R86, R91, R154, R157). -/
def Obligations.KnownPacketMismatch : Prop :=
  ∀ (s : State) (h : Header) (c : Check),
    (∀ (d : IndoorData) (k : Check), k = checksum (summedNibbles 0x5D60#16 h (indoorNibbles d)) →
      104 ≤ logicalLength s → c ≠ k → exec (.indoor h d c) s = .next { s with
        cursor := s.cursor + 1#32, diag := diagAfter s (mismatchRecord s 0x5D60#16 96 k c) }) ∧
    (∀ (d : RainData) (k : Check), k = checksum (summedNibbles 0x2D10#16 h (rainNibbles d)) →
      92 ≤ logicalLength s → c ≠ k → exec (.rain h d c) s = .next { s with
        cursor := s.cursor + 1#32, diag := diagAfter s (mismatchRecord s 0x2D10#16 84 k c) }) ∧
    (∀ (d : WindData) (k : Check), k = checksum (summedNibbles 0x3D00#16 h (windNibbles d)) →
      96 ≤ logicalLength s → c ≠ k → exec (.wind h d c) s = .next { s with
        cursor := s.cursor + 1#32, diag := diagAfter s (mismatchRecord s 0x3D00#16 88 k c) }) ∧
    (∀ (d : Out2Data) (k : Check), k = checksum (summedNibbles 0x1D20#16 h (out2Nibbles d)) →
      88 ≤ logicalLength s → c ≠ k → exec (.out2 h d c) s = .next { s with
        cursor := s.cursor + 1#32, diag := diagAfter s (mismatchRecord s 0x1D20#16 80 k c) }) ∧
    (∀ (d : Out1Data) (k : Check), k = checksum (summedNibbles 0x1D30#16 h (out1Nibbles d)) →
      88 ≤ logicalLength s → c ≠ k → exec (.out1 h d c) s = .next { s with
        cursor := s.cursor + 1#32, diag := diagAfter s (mismatchRecord s 0x1D30#16 80 k c) })

/-- UNK: with `ds = L - 16`, equal checksums end UNKNOWN_SENSOR with consumed length `2L`, unequal ones
CHECKSUM_MISMATCH; no result register changes (R83, R85, R88, R91, R126, R155). The ragged tail and a value above
255 follow R85, which marks them as general knowledge, and an L below 36, which no attempt reaches, is the model's
(log entry 20). -/
def Obligations.UnknownPacketOutcome : Prop :=
  ∀ (s : State) (id : BitVec 16) (tail : List Bool) (l : List Bool) (k : Check),
    16 ≤ logicalLength s → l = unkBits id tail →
    k = checksum ((List.range ((logicalLength s - 36) / 4)).map fun j => nib l (20 + 4 * j)) →
    (checkOf l (logicalLength s - 16) = k → exec (.unk id tail) s = .next { s with
      cursor := s.cursor + 1#32
      diag := diagAfter s
        { offset := s.cursor, L := BitVec.ofNat 32 (logicalLength s), outcome := .unknownSensor,
          sensorId := some id, ds := some (BitVec.ofNat 32 (logicalLength s - 16)),
          consumed := BitVec.ofNat 32 (2 * logicalLength s), header := none, info := .none } }) ∧
    (checkOf l (logicalLength s - 16) ≠ k → exec (.unk id tail) s = .next { s with
      cursor := s.cursor + 1#32
      diag := diagAfter s (mismatchRecord s id (logicalLength s - 16) k (checkOf l (logicalLength s - 16))) })

/-- Every row a scan step runs answers a next state in every state; it advances the cursor by one and leaves the
phase, VERBOSE, LEN, every cell of BITBUF and the host's side as they were (R32, R69, R157, R158, R160). The
model's choice: what a row does on a stream or at a cursor for which the decoder does not give it (log entries 16
and 22). -/
def Obligations.PacketRowsCompleteAndFrame : Prop :=
  ∀ (i : Instr) (s : State), packetSide i = true →
    ∃ t, exec i s = .next t ∧ t.cursor = s.cursor + 1#32 ∧ t.phase = s.phase ∧ t.verbose = s.verbose ∧
      t.len = s.len ∧ t.hostPort = s.hostPort ∧ t.readPort = s.readPort ∧ t.freeUses = s.freeUses ∧
      ∀ a, Memory.bit t.bitbuf a = Memory.bit s.bitbuf a

/-- An instruction changes no result register but those its row may write: a packet only those of its own type, an
unknown packet and a read none (R10, R13, R90, R128). The model's choice: that PREAMBLE and SYNC mean the rest of
DECODE from their stage on (log entry 16). -/
def Obligations.OnlyOwnRegistersWritten : Prop :=
  ∀ (i : Instr) (s t : State) (f : Field), exec i s = .next t → mayWrite i f = false →
    Readings.get t.readings f = Readings.get s.readings f

/-- An attempt presents exactly one record, after the earlier ones, when VERBOSE is 1, and none when it is 0 (R22,
R91). The model's choice: that PREAMBLE and SYNC mean the rest of DECODE from their stage on (log entry 16). -/
def Obligations.OneRecordPerAttempt : Prop :=
  ∀ (i : Instr) (s t : State), packetSide i = true → exec i s = .next t →
    (s.verbose = false → t.diag = s.diag) ∧
    (s.verbose = true → ∃ r, t.diag = s.diag ++ [r] ∧ r.offset = s.cursor ∧
      r.L = BitVec.ofNat 32 (logicalLength s) ∧ r.outcome ≠ .noPreamble)

/-- Decoding the same content a second time at the same cursor leaves the reading map as the first time left it
(R13, R128). The model's choice: that PREAMBLE and SYNC mean the rest of DECODE from their stage on (log entry
16). -/
def Obligations.DecodingIsIdempotent : Prop :=
  ∀ (i : Instr) (s t u : State), packetSide i = true → exec i s = .next t →
    exec i { t with cursor := s.cursor } = .next u → u.readings = t.readings

/-! ### The host operations -/

/-- LOAD outside BUSY. LEN takes a legal value and keeps the old one otherwise (R18, R140). A run within the buffer:
its cells hold the bits, every other cell reads as before, and nothing else changes (R140). The model's choice: the
partial forms of LOAD, and that a refused LEN leaves the bit writes done (log entry 18); that of a run past the last
cell each bit whose address names a cell is written there and each other bit lands in a free choice of some cell or
none, the last write that lands in a cell standing (log entry 4). -/
def Obligations.LoadEffect : Prop :=
  (∀ n a : Nat, a < Config.maxLen → landingCell n a = some a) ∧
  (∀ n a c : Nat, landingCell n a = some c → c < Config.maxLen) ∧
  ∀ (base : Word) (bits : List Bool) (len : Option Word) (s : State), s.phase ≠ .busy →
    ∃ t, exec (.load base bits len) s = .next t ∧
      (∀ v, len = some v → v.toNat ≤ Config.maxLen → t.len = v) ∧
      (∀ v, len = some v → Config.maxLen < v.toNat → t.len = s.len) ∧
      (len = none → t.len = s.len) ∧
      (bits = [] ∨ base.toNat + bits.length ≤ Config.maxLen →
        (∀ a, Memory.bit t.bitbuf a = if base.toNat ≤ a ∧ a < base.toNat + bits.length
          then bits.getD (a - base.toNat) false else Memory.bit s.bitbuf a) ∧
        { t with bitbuf := s.bitbuf, len := s.len } = s) ∧
      (bits ≠ [] → Config.maxLen < base.toNat + bits.length →
        (∀ a, (∀ k < bits.length, landingCell s.freeUses (base.toNat + k) ≠ some a) →
          Memory.bit t.bitbuf a = Memory.bit s.bitbuf a) ∧
        (∀ a k, k < bits.length → landingCell s.freeUses (base.toNat + k) = some a →
          (∀ j, k < j → j < bits.length → landingCell s.freeUses (base.toNat + j) ≠ some a) →
          Memory.bit t.bitbuf a = bits.getD k false) ∧
        { t with bitbuf := s.bitbuf, len := s.len, freeUses := s.freeUses } = s ∧
        t.freeUses = s.freeUses + 1)

/-- The block has no fatal error and no outcome stops a scan (R158, R160): every instruction answers a next state in
every state, and so does every step, whatever the host does. The rules do not give that next state everywhere. The
model's choice: going on after a LOAD, START or SET VERBOSE refused while BUSY, where R146 advises to treat such a
host as outside every claim (log entry 12); going on after a LOAD past the last cell (log entry 4); going on with a
free value after a result read refused while BUSY (log entry 8). -/
def Obligations.NoFatalError : Prop :=
  (∀ (i : Instr) (s : State), ∃ t, exec i s = .next t) ∧ (∀ s : State, ∃ t, step s = .next t)

/-- START outside BUSY: the map empties, the cursor is 0, DONE clears, BUSY sets, VERBOSE takes its bit of the
write; LEN and BITBUF stay (R17, R141, R172). The model's choice: START leaves the records of the DIAG port (log
entry 14) and the host's side (log entry 15) as they are. -/
def Obligations.StartEffect : Prop :=
  ∀ (v : Bool) (s : State), s.phase ≠ .busy →
    ∃ t, exec (.start v) s = .next t ∧ t.phase = .busy ∧ t.cursor = 0#32 ∧
      (∀ f, Readings.get t.readings f = none) ∧ t.verbose = v ∧ t.len = s.len ∧ t.bitbuf = s.bitbuf ∧
      t.diag = s.diag ∧ t.hostPort = s.hostPort ∧ t.readPort = s.readPort ∧ t.freeUses = s.freeUses

/-- SET VERBOSE outside BUSY writes VERBOSE and nothing else (R145). -/
def Obligations.SetVerboseEffect : Prop :=
  ∀ (v : Bool) (s : State), s.phase ≠ .busy → exec (.setVerbose v) s = .next { s with verbose := v }

/-- SRST in any phase: the reset values of the block, BITBUF kept (R23, R144, R171). The model's choice: the history
of DIAG records empties (log entry 14), and the host's side is not the block's and stays (log entry 15). -/
def Obligations.SoftResetEffect : Prop :=
  ∀ s : State, ∃ t, exec .srst s = .next t ∧ t.phase = .idle ∧ t.verbose = false ∧ t.len = 0#32 ∧
    t.cursor = 0#32 ∧ (∀ f, Readings.get t.readings f = none) ∧ t.diag = [] ∧
    (∀ a, Memory.bit t.bitbuf a = Memory.bit s.bitbuf a) ∧
    t.hostPort = s.hostPort ∧ t.readPort = s.readPort ∧ t.freeUses = s.freeUses

/-- While BUSY a LOAD, a START and a SET VERBOSE have no effect (R146). That the model goes on with that no effect
is its own choice (log entry 12): R146 also advises to treat such a host as outside every claim. -/
def Obligations.BusyWritesHaveNoEffect : Prop :=
  ∀ s : State, s.phase = .busy →
    (∀ base bits len, exec (.load base bits len) s = .next s) ∧
    (∀ v, exec (.start v) s = .next s) ∧
    (∀ v, exec (.setVerbose v) s = .next s)

/-- While BUSY a read of a result register or of VALID returns some value of which nothing is said, and changes
nothing of the block (R146; the form of the free value is log entry 8). -/
def Obligations.BusyReadsReturnSomething : Prop :=
  ∀ s : State, s.phase = .busy →
    (∀ f, ∃ v, exec (.readF (fieldNumber f)) s
      = .next { s with readPort := some v, freeUses := s.freeUses + 1 }) ∧
    (∃ v, exec .readValid s = .next { s with readPort := some v, freeUses := s.freeUses + 1 })

/-- READ F[n] outside BUSY returns the register, or `none` when its valid bit is 0, and changes nothing of the
block (R11, R142). -/
def Obligations.ReadFReturnsRegister : Prop :=
  ∀ (s : State) (f : Field), s.phase ≠ .busy →
    exec (.readF (fieldNumber f)) s = .next { s with readPort := Readings.get s.readings f }

/-- The numbers 0x1B to 0x1F are reserved: they read 0 in every phase (R18, R62). That they read 0 while BUSY too
is the model's reading (log entry 9). -/
def Obligations.ReadFReservedReadsZero : Prop :=
  ∀ (s : State) (n : BitVec 4), 11 ≤ n.toNat → exec (.readF n) s = .next { s with readPort := some 0#32 }

/-- READ VALID outside BUSY: bit n is `V[n]`, bits 31:11 are 0 (R15, R18, R142). -/
def Obligations.ReadValidReturnsMask : Prop :=
  ∀ s : State, s.phase ≠ .busy →
    ∃ w : Word, exec .readValid s = .next { s with readPort := some w } ∧
      (∀ f, w.getLsbD (fieldNumber f).toNat = (Readings.get s.readings f).isSome) ∧
      (∀ k, 11 ≤ k → w.getLsbD k = false)

/-- READ STATUS in any phase: bit 0 BUSY, bit 1 DONE, bits 31:2 zero, and never both bits (R16, R143). -/
def Obligations.ReadStatusReturnsPhase : Prop :=
  ∀ s : State, ∃ w : Word, exec .readStatus s = .next { s with readPort := some w } ∧
    w.getLsbD 0 = decide (s.phase = .busy) ∧ w.getLsbD 1 = decide (s.phase = .done) ∧
    (∀ k, 2 ≤ k → w.getLsbD k = false)

/-- READ CURSOR and READ LEN return the register and READ CTRL returns VERBOSE in bit 1 and 0 elsewhere, in any
phase (R14, R17, R18, R143). -/
def Obligations.ReadCursorLenCtrl : Prop :=
  ∀ s : State, exec .readCursor s = .next { s with readPort := some s.cursor } ∧
    exec .readLen s = .next { s with readPort := some s.len } ∧
    ∃ w : Word, exec .readCtrl s = .next { s with readPort := some w } ∧
      w.getLsbD 1 = s.verbose ∧ (∀ k, k ≠ 1 → w.getLsbD k = false)

/-! ### Reset, invariants, the scan as a whole -/

/-- What power-on reset leaves, for every value the spec gives; and the block takes no step (R23, R170). That the
host is silent at reset is the model's choice (log entry 15). -/
def Obligations.ResetState : Prop :=
  State.reset.phase = .idle ∧ State.reset.verbose = false ∧ State.reset.len = 0#32 ∧
  State.reset.cursor = 0#32 ∧ (∀ f, Readings.get State.reset.readings f = none) ∧ State.reset.diag = [] ∧
  step State.reset = .next State.reset

/-- The two invariants hold after reset: that of the block (R14, R16, R18, R19, R23), and the value ranges, every
register being absent (R12, R23). -/
def Obligations.InvariantsAtReset : Prop := Inv State.reset ∧ ReadingsInRange State.reset.readings

/-- Every step keeps the invariant of the block, whatever the host does: canonical BITBUF within MAXLEN, a legal
LEN, a cursor that never passes the loop bound, an idle block empty (R14, R16, R18, R19). That BITBUF is kept as a
canonical list is the model's choice (log entry 2). -/
def Obligations.StepKeepsInv : Prop := ∀ s t : State, Inv s → step s = .next t → Inv t

/-- Every step keeps every result register but `dewptf` in the range R12 gives it, for any nibbles and either tie
rule (R12). The weights are the stated defaults (log entry 13). -/
def Obligations.StepKeepsRanges : Prop :=
  ∀ s t : State, ReadingsInRange s.readings → step s = .next t → ReadingsInRange t.readings

/-- A scan from its start under a silent host: after `k <= max(0, LEN - 32)` steps the block is BUSY at cursor `k`
with the fold of the first `k` positions in the map, whatever the buffer holds; one more step after the last
position and it is DONE with the cursor at `max(0, LEN - 32)` (R69, R70, R71, R73, R180). The silent host is the
empty slot list of log entry 1. -/
def Obligations.ScanRunsToDone : Prop :=
  ∀ s : State, s.phase = .busy → s.cursor = 0#32 → s.hostPort = [] → s.readings = Readings.empty →
    (∀ k ≤ s.len.toNat - 32, ∃ t : State, Host.Core.run core k s = .next t ∧ t.phase = .busy ∧
      t.cursor = BitVec.ofNat 32 k ∧ t.readings = foldScan s k ∧ t.len = s.len ∧ t.bitbuf = s.bitbuf) ∧
    (∃ t : State, Host.Core.run core (s.len.toNat - 32 + 1) s = .next t ∧ t.phase = .done ∧
      t.cursor = BitVec.ofNat 32 (s.len.toNat - 32) ∧ t.readings = foldScan s (s.len.toNat - 32) ∧
      t.len = s.len ∧ t.bitbuf = s.bitbuf)

/-- VERBOSE changes no behaviour but the DIAG port: two runs from states that differ in VERBOSE and DIAG only, under
any host that does not read CTRL back, go through states that differ in VERBOSE and DIAG only (R17, R22, R145). The
host's moves as a list are log entry 1. -/
def Obligations.VerboseDoesNotInterfere : Prop :=
  ∀ (n : Nat) (s t s' : State), SameButDiag s t → (∀ slot ∈ s.hostPort, slot ≠ .access (.read 0x00#8)) →
    Host.Core.run core n s = .next s' →
    ∃ t' : State, Host.Core.run core n t = .next t' ∧ SameButDiag s' t'

/-! ### Arithmetic -/

/-- `round_q` is what R106 says: `floor((2a + b) / (2b))` under the default rule, the mirror image for a negative
`a`; under the other rule the even neighbour at a tie and the same value elsewhere. -/
def Obligations.RoundRule : Prop :=
  ∀ b : Nat, 0 < b →
    (∀ a : Int, 0 ≤ a → roundQ .halfAwayFromZero a b = (2 * a + b) / (2 * b)) ∧
    (∀ (t : Config.RoundTies) (a : Int), a < 0 → roundQ t a b = -roundQ t (-a) b) ∧
    (∀ a q : Int, 2 * a = (2 * q + 1) * b →
      roundQ .halfToEven a b % 2 = 0 ∧ (roundQ .halfToEven a b = q ∨ roundQ .halfToEven a b = q + 1)) ∧
    (∀ a : Int, (∀ q : Int, 2 * a ≠ (2 * q + 1) * b) →
      roundQ .halfToEven a b = roundQ .halfAwayFromZero a b)

/-- The temperature pipeline: every sign nibble but 0 negates and 0 does not, there is no negative zero (R105), and
`C2F(T10) = 18*T10 + 3200` with values in -26770..33170 on its domain (R107). -/
def Obligations.TemperaturePipeline : Prop :=
  (∀ (m : Nat) (sg : Nibble), (sg = 0#4 → signed m sg = (m : Int)) ∧ (sg ≠ 0#4 → signed m sg = -(m : Int)) ∧
    signed 0 sg = 0) ∧
  (∀ T10 : Int, c2f T10 = 18 * T10 + 3200 ∧
    (-1665 ≤ T10 → T10 ≤ 1665 → -26770 ≤ c2f T10 ∧ c2f T10 ≤ 33170))

/-- `round_q(a, b)` is an integer nearest to `a/b` under either tie rule (R7, R106). -/
def Obligations.RoundIsNearest : Prop :=
  ∀ (t : Config.RoundTies) (a : Int) (b : Nat), 0 < b → 2 * |a - b * roundQ t a b| ≤ b

/-- The tie rule touches `winddir` alone: the other pipelines give the same value under both rules on their whole
domains (R106, R108, R109, R110). -/
def Obligations.OnlyWindDirectionCanTie : Prop :=
  ∀ t u : Config.RoundTies,
    (∀ w : Nat, w ≤ 1665 → roundQ t (w * 223694 : Nat) 10000 = roundQ u (w * 223694 : Nat) 10000) ∧
    (∀ p : Nat, 856 ≤ p → p ≤ 1021 →
      roundQ t (p * 1000000000000 : Nat) 338638866667 = roundQ u (p * 1000000000000 : Nat) 338638866667) ∧
    (∀ r : Nat, roundQ t (r * 500 : Nat) 127 = roundQ u (r * 500 : Nat) 127) ∧
    (∀ r : Nat, roundQ t (r * 50 : Nat) 127 = roundQ u (r * 50 : Nat) 127) ∧
    roundQ .halfAwayFromZero 245 10 = 25 ∧ roundQ .halfToEven 245 10 = 24

/-- The dew point of an implementation: `C2F(T10)` at humidity 100; elsewhere one of the twenty integers from 9
below the floor of the exact value to 10 above it, and any of them is what some implementation gives (R113,
R125, D13; that the floor is evaluated in fixed point is log entry 5). -/
def Obligations.DewPointWindow : Prop :=
  ∀ (t10 : Int) (h : Nat),
    (h = 100 → dewpt t10 h = 18 * t10 + 3200) ∧
    (h ≠ 100 → dewFloor t10 h - 9 ≤ dewpt t10 h ∧ dewpt t10 h ≤ dewFloor t10 h + 10 ∧
      ∀ v, dewFloor t10 h - 9 ≤ v → v ≤ dewFloor t10 h + 10 → ∃ dev, dewptOf dev t10 h = v)

/-- Property DP1 up to a thousandth of a hundredth for the fixed-point evaluation: on its domain the dew point is
within 10.001 hundredths of a degree F of the Magnus-Tetens value taken in the reals (R113). The slack is the
model's (log entry 5). -/
def Obligations.DewPointNearMagnusTetens : Prop :=
  ∀ (t10 : Int) (h : Nat) (T g dewC : ℝ), -1665 ≤ t10 → t10 ≤ 1665 → 1 ≤ h → h ≤ 165 →
    T = (t10 : ℝ) / 10 → g = Real.log ((h : ℝ) / 100) + 17.67 * T / (243.5 + T) →
    dewC = 243.5 * g / (17.67 - g) →
    |(dewpt t10 h : ℝ) - 100 * (dewC * 9 / 5 + 32)| ≤ 10 + 1 / 1000

/-- The checksum: `value = (sum & 0xFF) + (sum >> 8)` split into its low and high nibble; for the at most 19
nibbles of a known type it holds all of `value`, which is `sum` up to 255 and `sum - 255` above (R85). A value
above 255 follows R85, which marks it as general knowledge (log entry 20). -/
def Obligations.ChecksumFold : Prop :=
  ∀ ns : List Nibble,
    (checksum ns).low.toNat = (nibbleSum ns % 256 + nibbleSum ns / 256) % 16 ∧
    (checksum ns).high.toNat = (nibbleSum ns % 256 + nibbleSum ns / 256) / 16 % 16 ∧
    (ns.length ≤ 19 → 16 * (checksum ns).high.toNat + (checksum ns).low.toNat
      = if nibbleSum ns ≤ 255 then nibbleSum ns else nibbleSum ns - 255)

/-- For the known types every single-bit flip in the checksummed range changes the checksum, so it is detected
(R86). -/
def Obligations.SingleBitFlipDetected : Prop :=
  ∀ (pre post : List Nibble) (n : Nibble) (k : Nat), k < 4 → pre.length + post.length + 1 ≤ 19 →
    checksum (pre ++ [n ^^^ BitVec.twoPow 4 k] ++ post) ≠ checksum (pre ++ [n] ++ post)
end

