-- ==== Sys2Proof/Laws/Decode.lean ====
section
/-! SUPPORT. The small lemmas of the decoder and the encoder. -/

namespace Sys2Proof

theorem nibbleOfBits_bits (n : Nibble) :
    nibbleOfBits (n.getLsbD 0) (n.getLsbD 1) (n.getLsbD 2) (n.getLsbD 3) = n := by
  revert n; decide

/-- The same in simp's normal form of a bit access. -/
@[simp] theorem nibbleOfBits_getElem (n : Nibble) : nibbleOfBits n[0] n[1] n[2] n[3] = n :=
  nibbleOfBits_bits n

@[simp] theorem nibbleBits_length (n : Nibble) : (nibbleBits n).length = 4 := rfl

@[simp] theorem nibblesBits_nil : nibblesBits [] = [] := rfl

@[simp] theorem nibblesBits_cons (n : Nibble) (ns : List Nibble) :
    nibblesBits (n :: ns) = nibbleBits n ++ nibblesBits ns := rfl

theorem nibblesBits_append (ns ms : List Nibble) :
    nibblesBits (ns ++ ms) = nibblesBits ns ++ nibblesBits ms := by simp [nibblesBits]

@[simp] theorem nibblesBits_length (ns : List Nibble) : (nibblesBits ns).length = 4 * ns.length := by
  induction ns with
  | nil => rfl
  | cons n ns ih => simp [ih]; omega

@[simp] theorem doubleBits_nil : doubleBits [] = [] := rfl

@[simp] theorem doubleBits_cons (b : Bool) (l : List Bool) :
    doubleBits (b :: l) = b :: (!b) :: doubleBits l := rfl

@[simp] theorem doubleBits_length (l : List Bool) : (doubleBits l).length = 2 * l.length := by
  induction l with
  | nil => rfl
  | cons b l ih => simp [ih]; omega

theorem doubleBits_append (l m : List Bool) : doubleBits (l ++ m) = doubleBits l ++ doubleBits m := by
  simp [doubleBits]

/-- De-interleaving undoes doubling. -/
@[simp] theorem deinterleave_doubleBits (l : List Bool) : deinterleave (doubleBits l) = l := by
  induction l with
  | nil => rfl
  | cons b l ih => simp [deinterleave, ih]

/-- De-interleaving undoes doubling in front of any stream. -/
theorem deinterleave_doubleBits_append (l raw : List Bool) :
    deinterleave (doubleBits l ++ raw) = l ++ deinterleave raw := by
  induction l with
  | nil => rfl
  | cons b l ih => simp [deinterleave, ih]

@[simp] theorem enc_length (ns : List Nibble) : (enc ns).length = 8 * ns.length := by
  simp [enc]; omega

/-- The first nibble of a nibble list read back. -/
theorem nib_nibblesBits_zero (n : Nibble) (ns : List Nibble) (l : List Bool) :
    nib (nibblesBits (n :: ns) ++ l) 0 = n := by
  simp [nib, nibbleBits]

/-- A nibble behind the first one. -/
theorem nib_nibblesBits_succ (n : Nibble) (ns : List Nibble) (l : List Bool) (k : Nat) :
    nib (nibblesBits (n :: ns) ++ l) (k + 4) = nib (nibblesBits ns ++ l) k := by
  simp [nib, nibbleBits, List.getD]

/-- Nibble `j` of a nibble list read back from its logical bits, whatever follows them. -/
theorem nib_nibblesBits (ns : List Nibble) (l : List Bool) : ∀ (j : Nat) (h : j < ns.length),
    nib (nibblesBits ns ++ l) (4 * j) = ns[j] := by
  induction ns with
  | nil => intro j h; exact absurd h (by simp)
  | cons n ns ih =>
    intro j h
    cases j with
    | zero => exact nib_nibblesBits_zero n ns l
    | succ j =>
      rw [show 4 * (j + 1) = 4 * j + 4 by omega, nib_nibblesBits_succ]
      simpa using ih j (by simpa using h)

/-- The four digits of an id put together again. -/
@[simp] theorem idNibbles_join (id : BitVec 16) :
    id.extractLsb' 12 4 ++ id.extractLsb' 8 4 ++ id.extractLsb' 4 4 ++ id.extractLsb' 0 4 = id := by
  ext k hk
  simp only [BitVec.getElem_append, BitVec.getElem_extractLsb']
  split
  · simp [BitVec.getLsbD_eq_getElem hk]
  · split
    · rw [show 4 + (k - 4) = k by omega]; exact BitVec.getLsbD_eq_getElem hk
    · split
      · rw [show 8 + (k - 4 - 4) = k by omega]; exact BitVec.getLsbD_eq_getElem hk
      · rw [show 12 + (k - 4 - 4 - 4) = k by omega]; exact BitVec.getLsbD_eq_getElem hk

/-- The table of R52 read in the other direction: dispatch finds the type of its id. -/
@[simp] theorem dispatch_sensorTypeId (t : SensorType) : dispatch (sensorTypeId t) = some t := by
  cases t <;> decide

/-- An id is unknown exactly when dispatch finds no type. -/
theorem dispatch_eq_none_iff (id : BitVec 16) : dispatch id = none ↔ unknownId id = true := by
  unfold dispatch unknownId
  constructor
  · intro h; simp only [Bool.and_eq_true, bne_iff_ne, ne_eq]; split_ifs at h; tauto
  · intro h; simp only [Bool.and_eq_true, bne_iff_ne, ne_eq] at h; simp [h]

end Sys2Proof
end

