-- ==== Sys2Proof/Laws/State.lean ====
section
/-! SUPPORT. One lemma per field of State per update, so that no later proof unfolds a record update. -/

namespace Sys2Proof.Machine

/-! ### advance -/

@[simp] theorem advance_phase (s : State) :
    (advance s).phase = s.phase := rfl
@[simp] theorem advance_verbose (s : State) :
    (advance s).verbose = s.verbose := rfl
@[simp] theorem advance_len (s : State) :
    (advance s).len = s.len := rfl
@[simp] theorem advance_cursor (s : State) :
    (advance s).cursor = s.cursor + 1#32 := rfl
@[simp] theorem advance_readings (s : State) :
    (advance s).readings = s.readings := rfl
@[simp] theorem advance_bitbuf (s : State) :
    (advance s).bitbuf = s.bitbuf := rfl
@[simp] theorem advance_diag (s : State) :
    (advance s).diag = s.diag := rfl
@[simp] theorem advance_hostPort (s : State) :
    (advance s).hostPort = s.hostPort := rfl
@[simp] theorem advance_readPort (s : State) :
    (advance s).readPort = s.readPort := rfl
@[simp] theorem advance_freeUses (s : State) :
    (advance s).freeUses = s.freeUses := rfl

/-! ### commit -/

@[simp] theorem commit_phase (s : State) (frag : Fragment) :
    (commit s frag).phase = s.phase := rfl
@[simp] theorem commit_verbose (s : State) (frag : Fragment) :
    (commit s frag).verbose = s.verbose := rfl
@[simp] theorem commit_len (s : State) (frag : Fragment) :
    (commit s frag).len = s.len := rfl
@[simp] theorem commit_cursor (s : State) (frag : Fragment) :
    (commit s frag).cursor = s.cursor := rfl
@[simp] theorem commit_readings (s : State) (frag : Fragment) :
    (commit s frag).readings = mergeFragment s.readings frag := rfl
@[simp] theorem commit_bitbuf (s : State) (frag : Fragment) :
    (commit s frag).bitbuf = s.bitbuf := rfl
@[simp] theorem commit_diag (s : State) (frag : Fragment) :
    (commit s frag).diag = s.diag := rfl
@[simp] theorem commit_hostPort (s : State) (frag : Fragment) :
    (commit s frag).hostPort = s.hostPort := rfl
@[simp] theorem commit_readPort (s : State) (frag : Fragment) :
    (commit s frag).readPort = s.readPort := rfl
@[simp] theorem commit_freeUses (s : State) (frag : Fragment) :
    (commit s frag).freeUses = s.freeUses := rfl

/-! ### finishScan -/

@[simp] theorem finishScan_phase (s : State) :
    (finishScan s).phase = .done := rfl
@[simp] theorem finishScan_verbose (s : State) :
    (finishScan s).verbose = s.verbose := rfl
@[simp] theorem finishScan_len (s : State) :
    (finishScan s).len = s.len := rfl
@[simp] theorem finishScan_cursor (s : State) :
    (finishScan s).cursor = s.cursor := rfl
@[simp] theorem finishScan_readings (s : State) :
    (finishScan s).readings = s.readings := rfl
@[simp] theorem finishScan_bitbuf (s : State) :
    (finishScan s).bitbuf = s.bitbuf := rfl
@[simp] theorem finishScan_diag (s : State) :
    (finishScan s).diag = s.diag := rfl
@[simp] theorem finishScan_hostPort (s : State) :
    (finishScan s).hostPort = s.hostPort := rfl
@[simp] theorem finishScan_readPort (s : State) :
    (finishScan s).readPort = s.readPort := rfl
@[simp] theorem finishScan_freeUses (s : State) :
    (finishScan s).freeUses = s.freeUses := rfl

/-! ### takeSlot -/

@[simp] theorem takeSlot_phase (s : State) :
    (takeSlot s).phase = s.phase := rfl
@[simp] theorem takeSlot_verbose (s : State) :
    (takeSlot s).verbose = s.verbose := rfl
@[simp] theorem takeSlot_len (s : State) :
    (takeSlot s).len = s.len := rfl
@[simp] theorem takeSlot_cursor (s : State) :
    (takeSlot s).cursor = s.cursor := rfl
@[simp] theorem takeSlot_readings (s : State) :
    (takeSlot s).readings = s.readings := rfl
@[simp] theorem takeSlot_bitbuf (s : State) :
    (takeSlot s).bitbuf = s.bitbuf := rfl
@[simp] theorem takeSlot_diag (s : State) :
    (takeSlot s).diag = s.diag := rfl
@[simp] theorem takeSlot_hostPort (s : State) :
    (takeSlot s).hostPort = s.hostPort.tail := rfl
@[simp] theorem takeSlot_readPort (s : State) :
    (takeSlot s).readPort = s.readPort := rfl
@[simp] theorem takeSlot_freeUses (s : State) :
    (takeSlot s).freeUses = s.freeUses := rfl

/-! ### answer -/

@[simp] theorem answer_phase (s : State) (v : Option Word) :
    (answer s v).phase = s.phase := rfl
@[simp] theorem answer_verbose (s : State) (v : Option Word) :
    (answer s v).verbose = s.verbose := rfl
@[simp] theorem answer_len (s : State) (v : Option Word) :
    (answer s v).len = s.len := rfl
@[simp] theorem answer_cursor (s : State) (v : Option Word) :
    (answer s v).cursor = s.cursor := rfl
@[simp] theorem answer_readings (s : State) (v : Option Word) :
    (answer s v).readings = s.readings := rfl
@[simp] theorem answer_bitbuf (s : State) (v : Option Word) :
    (answer s v).bitbuf = s.bitbuf := rfl
@[simp] theorem answer_diag (s : State) (v : Option Word) :
    (answer s v).diag = s.diag := rfl
@[simp] theorem answer_hostPort (s : State) (v : Option Word) :
    (answer s v).hostPort = s.hostPort := rfl
@[simp] theorem answer_readPort (s : State) (v : Option Word) :
    (answer s v).readPort = v := rfl
@[simp] theorem answer_freeUses (s : State) (v : Option Word) :
    (answer s v).freeUses = s.freeUses := rfl

/-! ### answerUnspecified -/

@[simp] theorem answerUnspecified_phase (s : State) :
    (answerUnspecified s).phase = s.phase := rfl
@[simp] theorem answerUnspecified_verbose (s : State) :
    (answerUnspecified s).verbose = s.verbose := rfl
@[simp] theorem answerUnspecified_len (s : State) :
    (answerUnspecified s).len = s.len := rfl
@[simp] theorem answerUnspecified_cursor (s : State) :
    (answerUnspecified s).cursor = s.cursor := rfl
@[simp] theorem answerUnspecified_readings (s : State) :
    (answerUnspecified s).readings = s.readings := rfl
@[simp] theorem answerUnspecified_bitbuf (s : State) :
    (answerUnspecified s).bitbuf = s.bitbuf := rfl
@[simp] theorem answerUnspecified_diag (s : State) :
    (answerUnspecified s).diag = s.diag := rfl
@[simp] theorem answerUnspecified_hostPort (s : State) :
    (answerUnspecified s).hostPort = s.hostPort := rfl
@[simp] theorem answerUnspecified_readPort (s : State) :
    (answerUnspecified s).readPort = some (Config.unspecifiedRead s.freeUses) := rfl
@[simp] theorem answerUnspecified_freeUses (s : State) :
    (answerUnspecified s).freeUses = s.freeUses + 1 := rfl

/-! ### startScan -/

@[simp] theorem startScan_phase (s : State) :
    (startScan s).phase = .busy := rfl
@[simp] theorem startScan_verbose (s : State) :
    (startScan s).verbose = s.verbose := rfl
@[simp] theorem startScan_len (s : State) :
    (startScan s).len = s.len := rfl
@[simp] theorem startScan_cursor (s : State) :
    (startScan s).cursor = 0#32 := rfl
@[simp] theorem startScan_readings (s : State) :
    (startScan s).readings = Readings.empty := rfl
@[simp] theorem startScan_bitbuf (s : State) :
    (startScan s).bitbuf = s.bitbuf := rfl
@[simp] theorem startScan_diag (s : State) :
    (startScan s).diag = s.diag := rfl
@[simp] theorem startScan_hostPort (s : State) :
    (startScan s).hostPort = s.hostPort := rfl
@[simp] theorem startScan_readPort (s : State) :
    (startScan s).readPort = s.readPort := rfl
@[simp] theorem startScan_freeUses (s : State) :
    (startScan s).freeUses = s.freeUses := rfl

/-! ### writeVerbose -/

@[simp] theorem writeVerbose_phase (s : State) (v : Bool) :
    (writeVerbose s v).phase = s.phase := rfl
@[simp] theorem writeVerbose_verbose (s : State) (v : Bool) :
    (writeVerbose s v).verbose = v := rfl
@[simp] theorem writeVerbose_len (s : State) (v : Bool) :
    (writeVerbose s v).len = s.len := rfl
@[simp] theorem writeVerbose_cursor (s : State) (v : Bool) :
    (writeVerbose s v).cursor = s.cursor := rfl
@[simp] theorem writeVerbose_readings (s : State) (v : Bool) :
    (writeVerbose s v).readings = s.readings := rfl
@[simp] theorem writeVerbose_bitbuf (s : State) (v : Bool) :
    (writeVerbose s v).bitbuf = s.bitbuf := rfl
@[simp] theorem writeVerbose_diag (s : State) (v : Bool) :
    (writeVerbose s v).diag = s.diag := rfl
@[simp] theorem writeVerbose_hostPort (s : State) (v : Bool) :
    (writeVerbose s v).hostPort = s.hostPort := rfl
@[simp] theorem writeVerbose_readPort (s : State) (v : Bool) :
    (writeVerbose s v).readPort = s.readPort := rfl
@[simp] theorem writeVerbose_freeUses (s : State) (v : Bool) :
    (writeVerbose s v).freeUses = s.freeUses := rfl

/-! ### softReset -/

@[simp] theorem softReset_phase (s : State) :
    (softReset s).phase = .idle := rfl
@[simp] theorem softReset_verbose (s : State) :
    (softReset s).verbose = false := rfl
@[simp] theorem softReset_len (s : State) :
    (softReset s).len = 0#32 := rfl
@[simp] theorem softReset_cursor (s : State) :
    (softReset s).cursor = 0#32 := rfl
@[simp] theorem softReset_readings (s : State) :
    (softReset s).readings = Readings.empty := rfl
@[simp] theorem softReset_bitbuf (s : State) :
    (softReset s).bitbuf = s.bitbuf := rfl
@[simp] theorem softReset_diag (s : State) :
    (softReset s).diag = [] := rfl
@[simp] theorem softReset_hostPort (s : State) :
    (softReset s).hostPort = s.hostPort := rfl
@[simp] theorem softReset_readPort (s : State) :
    (softReset s).readPort = s.readPort := rfl
@[simp] theorem softReset_freeUses (s : State) :
    (softReset s).freeUses = s.freeUses := rfl

/-! ### loadBits -/

@[simp] theorem loadBits_phase (s : State) (base : Word) (bits : List Bool) (len : Option Word) :
    (loadBits s base bits len).phase = s.phase := rfl
@[simp] theorem loadBits_verbose (s : State) (base : Word) (bits : List Bool) (len : Option Word) :
    (loadBits s base bits len).verbose = s.verbose := rfl
@[simp] theorem loadBits_len (s : State) (base : Word) (bits : List Bool) (len : Option Word) :
    (loadBits s base bits len).len = lenAfterWrite s.len len := rfl
@[simp] theorem loadBits_cursor (s : State) (base : Word) (bits : List Bool) (len : Option Word) :
    (loadBits s base bits len).cursor = s.cursor := rfl
@[simp] theorem loadBits_readings (s : State) (base : Word) (bits : List Bool) (len : Option Word) :
    (loadBits s base bits len).readings = s.readings := rfl
@[simp] theorem loadBits_bitbuf (s : State) (base : Word) (bits : List Bool) (len : Option Word) :
    (loadBits s base bits len).bitbuf = Memory.writeRun s.bitbuf base.toNat bits := rfl
@[simp] theorem loadBits_diag (s : State) (base : Word) (bits : List Bool) (len : Option Word) :
    (loadBits s base bits len).diag = s.diag := rfl
@[simp] theorem loadBits_hostPort (s : State) (base : Word) (bits : List Bool) (len : Option Word) :
    (loadBits s base bits len).hostPort = s.hostPort := rfl
@[simp] theorem loadBits_readPort (s : State) (base : Word) (bits : List Bool) (len : Option Word) :
    (loadBits s base bits len).readPort = s.readPort := rfl
@[simp] theorem loadBits_freeUses (s : State) (base : Word) (bits : List Bool) (len : Option Word) :
    (loadBits s base bits len).freeUses = s.freeUses := rfl

/-! ### loadBeyond -/

@[simp] theorem loadBeyond_phase (s : State) (base : Word) (bits : List Bool) (len : Option Word) :
    (loadBeyond s base bits len).phase = s.phase := rfl
@[simp] theorem loadBeyond_verbose (s : State) (base : Word) (bits : List Bool) (len : Option Word) :
    (loadBeyond s base bits len).verbose = s.verbose := rfl
@[simp] theorem loadBeyond_len (s : State) (base : Word) (bits : List Bool) (len : Option Word) :
    (loadBeyond s base bits len).len = lenAfterWrite s.len len := rfl
@[simp] theorem loadBeyond_cursor (s : State) (base : Word) (bits : List Bool) (len : Option Word) :
    (loadBeyond s base bits len).cursor = s.cursor := rfl
@[simp] theorem loadBeyond_readings (s : State) (base : Word) (bits : List Bool) (len : Option Word) :
    (loadBeyond s base bits len).readings = s.readings := rfl
@[simp] theorem loadBeyond_bitbuf (s : State) (base : Word) (bits : List Bool) (len : Option Word) :
    (loadBeyond s base bits len).bitbuf = Memory.writeStray s.freeUses s.bitbuf base.toNat bits := rfl
@[simp] theorem loadBeyond_diag (s : State) (base : Word) (bits : List Bool) (len : Option Word) :
    (loadBeyond s base bits len).diag = s.diag := rfl
@[simp] theorem loadBeyond_hostPort (s : State) (base : Word) (bits : List Bool) (len : Option Word) :
    (loadBeyond s base bits len).hostPort = s.hostPort := rfl
@[simp] theorem loadBeyond_readPort (s : State) (base : Word) (bits : List Bool) (len : Option Word) :
    (loadBeyond s base bits len).readPort = s.readPort := rfl
@[simp] theorem loadBeyond_freeUses (s : State) (base : Word) (bits : List Bool) (len : Option Word) :
    (loadBeyond s base bits len).freeUses = s.freeUses + 1 := rfl

/-! ### present: only the DIAG port can change -/

@[simp] theorem present_phase (s : State) (r : DiagRecord) : (present s r).phase = s.phase := by
  unfold present; split <;> rfl
@[simp] theorem present_verbose (s : State) (r : DiagRecord) : (present s r).verbose = s.verbose := by
  unfold present; split <;> rfl
@[simp] theorem present_len (s : State) (r : DiagRecord) : (present s r).len = s.len := by
  unfold present; split <;> rfl
@[simp] theorem present_cursor (s : State) (r : DiagRecord) : (present s r).cursor = s.cursor := by
  unfold present; split <;> rfl
@[simp] theorem present_readings (s : State) (r : DiagRecord) : (present s r).readings = s.readings := by
  unfold present; split <;> rfl
@[simp] theorem present_bitbuf (s : State) (r : DiagRecord) : (present s r).bitbuf = s.bitbuf := by
  unfold present; split <;> rfl
@[simp] theorem present_diag (s : State) (r : DiagRecord) :
    (present s r).diag = if s.verbose then s.diag ++ [r] else s.diag := by unfold present; split <;> rfl
@[simp] theorem present_hostPort (s : State) (r : DiagRecord) : (present s r).hostPort = s.hostPort := by
  unfold present; split <;> rfl
@[simp] theorem present_readPort (s : State) (r : DiagRecord) : (present s r).readPort = s.readPort := by
  unfold present; split <;> rfl
@[simp] theorem present_freeUses (s : State) (r : DiagRecord) : (present s r).freeUses = s.freeUses := by
  unfold present; split <;> rfl

/-! ### raiseOutcome and decodedOutcome -/

@[simp] theorem raiseOutcome_phase (s : State) (r : DiagRecord) :
    (raiseOutcome s r).phase = s.phase := by simp [raiseOutcome]
@[simp] theorem raiseOutcome_verbose (s : State) (r : DiagRecord) :
    (raiseOutcome s r).verbose = s.verbose := by simp [raiseOutcome]
@[simp] theorem raiseOutcome_len (s : State) (r : DiagRecord) :
    (raiseOutcome s r).len = s.len := by simp [raiseOutcome]
@[simp] theorem raiseOutcome_cursor (s : State) (r : DiagRecord) :
    (raiseOutcome s r).cursor = s.cursor + 1#32 := by simp [raiseOutcome]
@[simp] theorem raiseOutcome_readings (s : State) (r : DiagRecord) :
    (raiseOutcome s r).readings = s.readings := by simp [raiseOutcome]
@[simp] theorem raiseOutcome_bitbuf (s : State) (r : DiagRecord) :
    (raiseOutcome s r).bitbuf = s.bitbuf := by simp [raiseOutcome]
@[simp] theorem raiseOutcome_diag (s : State) (r : DiagRecord) :
    (raiseOutcome s r).diag = if s.verbose then s.diag ++ [r] else s.diag := by simp [raiseOutcome]
@[simp] theorem raiseOutcome_hostPort (s : State) (r : DiagRecord) :
    (raiseOutcome s r).hostPort = s.hostPort := by simp [raiseOutcome]
@[simp] theorem raiseOutcome_readPort (s : State) (r : DiagRecord) :
    (raiseOutcome s r).readPort = s.readPort := by simp [raiseOutcome]
@[simp] theorem raiseOutcome_freeUses (s : State) (r : DiagRecord) :
    (raiseOutcome s r).freeUses = s.freeUses := by simp [raiseOutcome]
@[simp] theorem decodedOutcome_phase (s : State) (r : DiagRecord) (frag : Fragment) :
    (decodedOutcome s r frag).phase = s.phase := by simp [decodedOutcome]
@[simp] theorem decodedOutcome_verbose (s : State) (r : DiagRecord) (frag : Fragment) :
    (decodedOutcome s r frag).verbose = s.verbose := by simp [decodedOutcome]
@[simp] theorem decodedOutcome_len (s : State) (r : DiagRecord) (frag : Fragment) :
    (decodedOutcome s r frag).len = s.len := by simp [decodedOutcome]
@[simp] theorem decodedOutcome_cursor (s : State) (r : DiagRecord) (frag : Fragment) :
    (decodedOutcome s r frag).cursor = s.cursor + 1#32 := by simp [decodedOutcome]
@[simp] theorem decodedOutcome_readings (s : State) (r : DiagRecord) (frag : Fragment) :
    (decodedOutcome s r frag).readings = mergeFragment s.readings frag := by simp [decodedOutcome]
@[simp] theorem decodedOutcome_bitbuf (s : State) (r : DiagRecord) (frag : Fragment) :
    (decodedOutcome s r frag).bitbuf = s.bitbuf := by simp [decodedOutcome]
@[simp] theorem decodedOutcome_diag (s : State) (r : DiagRecord) (frag : Fragment) :
    (decodedOutcome s r frag).diag = if s.verbose then s.diag ++ [r] else s.diag := by
  unfold decodedOutcome; rw [advance_diag, present_diag]; rfl
@[simp] theorem decodedOutcome_hostPort (s : State) (r : DiagRecord) (frag : Fragment) :
    (decodedOutcome s r frag).hostPort = s.hostPort := by simp [decodedOutcome]
@[simp] theorem decodedOutcome_readPort (s : State) (r : DiagRecord) (frag : Fragment) :
    (decodedOutcome s r frag).readPort = s.readPort := by simp [decodedOutcome]
@[simp] theorem decodedOutcome_freeUses (s : State) (r : DiagRecord) (frag : Fragment) :
    (decodedOutcome s r frag).freeUses = s.freeUses := by simp [decodedOutcome]

/-! ### The state after reset -/

@[simp] theorem reset_phase : State.reset.phase = .idle := rfl
@[simp] theorem reset_verbose : State.reset.verbose = false := rfl
@[simp] theorem reset_len : State.reset.len = 0#32 := rfl
@[simp] theorem reset_cursor : State.reset.cursor = 0#32 := rfl
@[simp] theorem reset_readings : State.reset.readings = Readings.empty := rfl
@[simp] theorem reset_bitbuf : State.reset.bitbuf = [] := rfl
@[simp] theorem reset_diag : State.reset.diag = [] := rfl
@[simp] theorem reset_hostPort : State.reset.hostPort = [] := rfl
@[simp] theorem reset_readPort : State.reset.readPort = none := rfl
@[simp] theorem reset_freeUses : State.reset.freeUses = 0 := rfl

/-! ### The result registers -/

@[simp] theorem get_empty (f : Field) : Readings.get Readings.empty f = none := by cases f <;> rfl

@[simp] theorem get_set_same (r : Readings) (f : Field) (v : Word) :
    Readings.get (Readings.set r f v) f = some v := by cases f <;> rfl

theorem get_set_other (r : Readings) {f g : Field} (v : Word) (h : g ≠ f) :
    Readings.get (Readings.set r f v) g = Readings.get r g := by
  cases f <;> cases g <;> first | rfl | exact absurd rfl h

@[simp] theorem mergeFragment_nil (r : Readings) : mergeFragment r [] = r := rfl

@[simp] theorem mergeFragment_cons (r : Readings) (f : Field) (v : Int) (rest : Fragment) :
    mergeFragment r ((f, v) :: rest) = mergeFragment (Readings.set r f (BitVec.ofInt 32 v)) rest := rfl

/-- A register no pair of the fragment names keeps its value. -/
theorem mergeFragment_other (frag : Fragment) (f : Field) (h : ∀ p ∈ frag, p.1 ≠ f) :
    ∀ r, Readings.get (mergeFragment r frag) f = Readings.get r f := by
  induction frag with
  | nil => intro r; rfl
  | cons p rest ih =>
    intro r
    rw [show mergeFragment r (p :: rest)
      = mergeFragment (Readings.set r p.1 (BitVec.ofInt 32 p.2)) rest from rfl,
      ih fun q hq => h q (List.mem_cons_of_mem _ hq)]
    exact get_set_other r _ (Ne.symm (h p List.mem_cons_self))

end Sys2Proof.Machine
end

