-- ==== Sys2Proof/Laws/Memory.lean ====
section
/-! SUPPORT. BITBUF: a read after a write, and every operation keeps the canonical form. -/

namespace Sys2Proof.Machine

/-! ### Reads and writes -/

@[simp] theorem find_write_same (m : Memory) (a : Nat) (v : Bool) :
    Memory.find (Memory.write m a v) a = some v := by
  induction m with
  | nil => simp [Memory.write, Memory.find]
  | cons c rest ih =>
    obtain ⟨b, w⟩ := c
    unfold Memory.write
    split
    · simp [Memory.find]
    · split
      · simp [Memory.find]
      · next h => simp [Memory.find, h, ih]

theorem find_write_other (m : Memory) {a c : Nat} (v : Bool) (h : c ≠ a) :
    Memory.find (Memory.write m a v) c = Memory.find m c := by
  induction m with
  | nil => simp [Memory.write, Memory.find, h]
  | cons p rest ih =>
    obtain ⟨b, w⟩ := p
    unfold Memory.write
    split
    · simp [Memory.find, h]
    · split
      · next hab => subst hab; simp [Memory.find, h]
      · simp [Memory.find, ih]

@[simp] theorem bit_write_same (m : Memory) (a : Nat) (v : Bool) :
    Memory.bit (Memory.write m a v) a = v := by simp [Memory.bit]

theorem bit_write_other (m : Memory) {a c : Nat} (v : Bool) (h : c ≠ a) :
    Memory.bit (Memory.write m a v) c = Memory.bit m c := by simp [Memory.bit, find_write_other m v h]

/-- Outside the run every cell reads as before. -/
theorem bit_writeRun_outside (bits : List Bool) : ∀ (m : Memory) (a c : Nat),
    (c < a ∨ a + bits.length ≤ c) → Memory.bit (Memory.writeRun m a bits) c = Memory.bit m c := by
  induction bits with
  | nil => intro m a c _; rfl
  | cons v rest ih =>
    intro m a c h
    simp only [List.length_cons] at h
    rw [Memory.writeRun, ih _ _ _ (by omega), bit_write_other _ _ (by omega)]

/-- Inside the run a cell reads as the bit written to it. -/
theorem bit_writeRun_inside (bits : List Bool) : ∀ (m : Memory) (a k : Nat) (h : k < bits.length),
    Memory.bit (Memory.writeRun m a bits) (a + k) = bits[k] := by
  induction bits with
  | nil => intro m a k h; exact absurd h (by simp)
  | cons v rest ih =>
    intro m a k h
    cases k with
    | zero =>
      rw [Memory.writeRun, bit_writeRun_outside _ _ _ _ (by omega)]
      simp
    | succ k =>
      rw [Memory.writeRun, show a + (k + 1) = (a + 1) + k by omega,
        ih _ _ _ (by simpa using h)]
      simp

@[simp] theorem range_length (m : Memory) : ∀ (n a : Nat), (Memory.range m a n).length = n
  | 0, _ => rfl
  | n + 1, a => by simp [Memory.range, range_length m n (a + 1)]

/-- `MemRead(a, n)` holds the bits of the cells from `a` on. -/
theorem range_getElem (m : Memory) : ∀ (n a k : Nat) (h : k < (Memory.range m a n).length),
    (Memory.range m a n)[k] = Memory.bit m (a + k)
  | 0, _, _, h => absurd h (by simp)
  | n + 1, a, 0, _ => by simp [Memory.range]
  | n + 1, a, k + 1, h => by
    simp only [Memory.range, List.getElem_cons_succ]
    rw [range_getElem m n (a + 1) k, show a + 1 + k = a + (k + 1) by omega]

/-! ### The canonical form -/

theorem wf_tail {c : Nat × Bool} {m : Memory} (h : Memory.wf (c :: m) = true) : Memory.wf m = true := by
  cases m with
  | nil => rfl
  | cons d rest => simp only [Memory.wf, Bool.and_eq_true] at h; exact h.2

/-- A write at or above a lower bound of the addresses keeps the bound. -/
theorem write_head (m : Memory) (a : Nat) (v : Bool) :
    ∃ c rest, Memory.write m a v = c :: rest ∧ (c.1 = a ∨ ∃ d rest', m = d :: rest' ∧ c.1 = d.1) := by
  cases m with
  | nil => exact ⟨_, _, rfl, .inl rfl⟩
  | cons d rest =>
    obtain ⟨b, w⟩ := d
    unfold Memory.write
    split
    · exact ⟨_, _, rfl, .inl rfl⟩
    · split
      · exact ⟨_, _, rfl, .inl rfl⟩
      · exact ⟨_, _, rfl, .inr ⟨_, _, rfl, rfl⟩⟩

theorem wf_cons_write (m : Memory) (b a : Nat) (w v : Bool) (hba : b < a)
    (h : Memory.wf ((b, w) :: m) = true) (hm : Memory.wf (Memory.write m a v) = true) :
    Memory.wf ((b, w) :: Memory.write m a v) = true := by
  obtain ⟨c, rest, hc, hcase⟩ := write_head m a v
  rw [hc] at hm ⊢
  obtain ⟨c1, c2⟩ := c
  simp only [Memory.wf, Bool.and_eq_true, decide_eq_true_eq]
  refine ⟨?_, hm⟩
  rcases hcase with rfl | ⟨d, rest', rfl, hd⟩
  · exact hba
  · obtain ⟨d1, d2⟩ := d
    simp only [Memory.wf, Bool.and_eq_true, decide_eq_true_eq] at h
    have hcd : c1 = d1 := hd
    exact hcd ▸ h.1

/-- A write keeps the canonical form. -/
theorem wf_write (m : Memory) (a : Nat) (v : Bool) (h : Memory.wf m = true) :
    Memory.wf (Memory.write m a v) = true := by
  induction m with
  | nil => rfl
  | cons c rest ih =>
    obtain ⟨b, w⟩ := c
    have ht := ih (wf_tail h)
    unfold Memory.write
    split
    · next hab => simp [Memory.wf, hab, h]
    · split
      · next hab =>
        subst hab
        cases rest with
        | nil => rfl
        | cons d rest' => simpa [Memory.wf] using h
      · exact wf_cons_write rest b a w v (by omega) h ht

/-- A run of writes keeps the canonical form. -/
theorem wf_writeRun (bits : List Bool) : ∀ (m : Memory) (a : Nat), Memory.wf m = true →
    Memory.wf (Memory.writeRun m a bits) = true := by
  induction bits with
  | nil => intro m a h; exact h
  | cons v rest ih => intro m a h; exact ih _ _ (wf_write m a v h)

theorem wf_reset : Memory.wf State.reset.bitbuf = true := rfl

/-- A write lists no cell but its own beside those listed before. -/
theorem mem_write (m : Memory) (a : Nat) (v : Bool) : ∀ c ∈ Memory.write m a v, c = (a, v) ∨ c ∈ m := by
  induction m with
  | nil => intro c hc; simpa [Memory.write] using hc
  | cons d rest ih =>
    obtain ⟨b, w⟩ := d
    intro c hc
    unfold Memory.write at hc
    split at hc
    · simpa using hc
    · split at hc
      · rcases List.mem_cons.mp hc with h | h
        · exact .inl h
        · exact .inr (List.mem_cons_of_mem _ h)
      · rcases List.mem_cons.mp hc with h | h
        · exact .inr (h ▸ List.mem_cons_self)
        · exact (ih c h).imp id (List.mem_cons_of_mem _)

/-- A run of writes below a bound keeps all listed cells below it. -/
theorem writeRun_bounded (n : Nat) (bits : List Bool) : ∀ (m : Memory) (a : Nat),
    (∀ c ∈ m, c.1 < n) → a + bits.length ≤ n → ∀ c ∈ Memory.writeRun m a bits, c.1 < n := by
  induction bits with
  | nil => intro m a h _; exact h
  | cons v rest ih =>
    intro m a h hn
    simp only [List.length_cons] at hn
    refine ih _ _ (fun c hc => ?_) (by omega)
    rcases mem_write m a v c hc with rfl | hc
    · show a < n; omega
    · exact h c hc

/-! ### Runs past the last cell -/

theorem landingCell_lt {n a c : Nat} (h : landingCell n a = some c) : c < Config.maxLen := by
  unfold landingCell at h
  split at h
  · cases h; assumption
  · simp only [Option.filter_eq_some_iff, decide_eq_true_eq] at h
    exact h.2

@[simp] theorem landingCell_of_lt (n : Nat) {a : Nat} (h : a < Config.maxLen) : landingCell n a = some a := by
  simp [landingCell, h]

/-- What a stray run can do to a cell: nothing, or the last write that lands in it stands. -/
theorem bit_writeStray (n : Nat) (bits : List Bool) : ∀ (m : Memory) (a c : Nat),
    ((∀ k < bits.length, landingCell n (a + k) ≠ some c) ∧
      Memory.bit (Memory.writeStray n m a bits) c = Memory.bit m c) ∨
    (∃ k, ∃ h : k < bits.length, landingCell n (a + k) = some c ∧
      (∀ j, k < j → j < bits.length → landingCell n (a + j) ≠ some c) ∧
      Memory.bit (Memory.writeStray n m a bits) c = bits[k]) := by
  induction bits with
  | nil => intro m a c; exact .inl ⟨fun k hk => absurd hk (by simp), rfl⟩
  | cons v rest ih =>
    intro m a c
    have shift (k : Nat) : a + 1 + k = a + (k + 1) := by omega
    suffices step : ∀ m', Memory.writeStray n m a (v :: rest) = Memory.writeStray n m' (a + 1) rest →
        (landingCell n a = some c ∧ Memory.bit m' c = v ∨
          landingCell n a ≠ some c ∧ Memory.bit m' c = Memory.bit m c) → _ by
      cases hl : landingCell n a with
      | none => exact step m (by simp [Memory.writeStray, hl]) (.inr ⟨by simp [hl], rfl⟩)
      | some d =>
        refine step (Memory.write m d v) (by simp [Memory.writeStray, hl]) ?_
        by_cases h : d = c
        · subst h; exact .inl ⟨hl, bit_write_same m d v⟩
        · exact .inr ⟨by simp [hl, h], bit_write_other m v (Ne.symm h)⟩
    intro m' he hm
    rw [he]
    rcases ih m' (a + 1) c with ⟨hk, hb⟩ | ⟨k, hk, hl, hj, hb⟩
    · rcases hm with ⟨h0, h1⟩ | ⟨h0, h1⟩
      · refine .inr ⟨0, by simp, h0, fun j hj hlt => ?_, by rw [hb, h1]; rfl⟩
        obtain ⟨j, rfl⟩ : ∃ i, j = i + 1 := ⟨j - 1, by omega⟩
        exact shift j ▸ hk j (by simpa using hlt)
      · refine .inl ⟨fun j hlt => ?_, by rw [hb, h1]⟩
        cases j with
        | zero => exact h0
        | succ j => exact shift j ▸ hk j (by simpa using hlt)
    · refine .inr ⟨k + 1, by simpa using hk, shift k ▸ hl, fun j hj' hlt => ?_, hb⟩
      obtain ⟨j, rfl⟩ : ∃ i, j = i + 1 := ⟨j - 1, by omega⟩
      exact shift j ▸ hj j (by omega) (by simpa using hlt)

/-- A stray run keeps the canonical form. -/
theorem wf_writeStray (n : Nat) (bits : List Bool) : ∀ (m : Memory) (a : Nat), Memory.wf m = true →
    Memory.wf (Memory.writeStray n m a bits) = true := by
  induction bits with
  | nil => intro m a h; exact h
  | cons v rest ih =>
    intro m a h
    unfold Memory.writeStray
    split
    · exact ih _ _ (wf_write m _ v h)
    · exact ih _ _ h

/-- A stray run lists existing cells only. -/
theorem writeStray_bounded (n : Nat) (bits : List Bool) : ∀ (m : Memory) (a : Nat),
    (∀ c ∈ m, c.1 < Config.maxLen) → ∀ c ∈ Memory.writeStray n m a bits, c.1 < Config.maxLen := by
  induction bits with
  | nil => intro m a h; exact h
  | cons v rest ih =>
    intro m a h
    unfold Memory.writeStray
    split
    · next d hd =>
      refine ih _ _ fun c hc => ?_
      rcases mem_write m d v c hc with rfl | hc
      · exact landingCell_lt hd
      · exact h c hc
    · exact ih _ _ h

end Sys2Proof.Machine
end

