-- ==== Sys2Proof/Laws/Ops.lean ====
section
/-! SUPPORT. What each shared operation can do, said once. -/

namespace Sys2Proof.Machine

/-- The two ways an attempt ends: an outcome that writes no result register, or a commit. -/
def AttemptEnd (s t : State) : Prop :=
  (∃ r, t = raiseOutcome s r) ∨ (∃ r frag, t = decodedOutcome s r frag)

/-! ### packetAttempt -/

theorem packetAttempt_truncated {s : State} {t : SensorType} (ns : List Nibble) (ocs : Check) (h : Header)
    (frag : Fragment) (info : DiagInfo) (hL : logicalLength s < sensorTypeDs t + 8) :
    packetAttempt s t ns ocs h frag info
      = raiseOutcome s (truncatedBodyRecord s (sensorTypeId t) (sensorTypeDs t)) := by
  simp [packetAttempt, hL]

theorem packetAttempt_decoded {s : State} {t : SensorType} {ns : List Nibble} {ocs : Check} (h : Header)
    (frag : Fragment) (info : DiagInfo) (hL : sensorTypeDs t + 8 ≤ logicalLength s)
    (hc : ocs = checksum ns) :
    packetAttempt s t ns ocs h frag info
      = decodedOutcome s (decodedRecord s (sensorTypeId t) (sensorTypeDs t) h info) frag := by
  simp [packetAttempt, Nat.not_lt.mpr hL, hc]

theorem packetAttempt_mismatch {s : State} {t : SensorType} {ns : List Nibble} {ocs : Check} (h : Header)
    (frag : Fragment) (info : DiagInfo) (hL : sensorTypeDs t + 8 ≤ logicalLength s)
    (hc : ocs ≠ checksum ns) :
    packetAttempt s t ns ocs h frag info
      = raiseOutcome s (mismatchRecord s (sensorTypeId t) (sensorTypeDs t) (checksum ns) ocs) := by
  simp [packetAttempt, Nat.not_lt.mpr hL, hc]

theorem packetAttempt_end (s : State) (t : SensorType) (ns : List Nibble) (ocs : Check) (h : Header)
    (frag : Fragment) (info : DiagInfo) : AttemptEnd s (packetAttempt s t ns ocs h frag info) := by
  unfold packetAttempt
  split
  · exact .inl ⟨_, rfl⟩
  · split
    · exact .inr ⟨_, _, rfl⟩
    · exact .inl ⟨_, rfl⟩

/-! ### The other attempts -/

/-- An attempt on an unknown id never commits. -/
theorem unknownAttempt_raises (s : State) (id : BitVec 16) (l : List Bool) :
    ∃ r, unknownAttempt s id l = raiseOutcome s r := by
  unfold unknownAttempt
  split
  · exact ⟨_, rfl⟩
  · split <;> exact ⟨_, rfl⟩

theorem dispatchStage_end (s : State) (l : List Bool) : AttemptEnd s (dispatchStage s l) := by
  unfold dispatchStage
  split
  · exact packetAttempt_end ..
  · exact packetAttempt_end ..
  · exact packetAttempt_end ..
  · exact packetAttempt_end ..
  · exact packetAttempt_end ..
  · exact .inl (unknownAttempt_raises s _ l)

theorem idStage_end (s : State) (l : List Bool) : AttemptEnd s (idStage s l) := by
  unfold idStage
  split
  · exact .inl ⟨_, rfl⟩
  · exact dispatchStage_end s l

theorem syncStage_end (s : State) (l : List Bool) : AttemptEnd s (syncStage s l) := by
  unfold syncStage
  split
  · exact .inl ⟨_, rfl⟩
  · split
    · exact idStage_end s l
    · exact .inl ⟨_, rfl⟩

/-- A packet-side row always answers a next state, and it ends as an attempt ends. -/
theorem exec_packetSide_end (i : Instr) (s : State) (hi : packetSide i = true) :
    ∃ t, exec i s = .next t ∧ AttemptEnd s t := by
  cases i with
  | preamble => exact ⟨_, rfl, syncStage_end ..⟩
  | sync => exact ⟨_, rfl, idStage_end ..⟩
  | indoor h d c => exact ⟨_, rfl, packetAttempt_end ..⟩
  | rain h d c => exact ⟨_, rfl, packetAttempt_end ..⟩
  | wind h d c => exact ⟨_, rfl, packetAttempt_end ..⟩
  | out2 h d c => exact ⟨_, rfl, packetAttempt_end ..⟩
  | out1 h d c => exact ⟨_, rfl, packetAttempt_end ..⟩
  | unk id tail => exact ⟨_, rfl, .inl (unknownAttempt_raises ..)⟩
  | load _ _ _ => cases hi
  | start _ => cases hi
  | setVerbose _ => cases hi
  | srst => cases hi
  | readF _ => cases hi
  | readValid => cases hi
  | readStatus => cases hi
  | readCursor => cases hi
  | readLen => cases hi
  | readCtrl => cases hi

/-! ### The step -/

/-- What a step is, by the host's slot. -/
theorem step_cases (s : State) :
    (s.hostPort = [] ∧ step s = blockStep s) ∨
    (∃ rest, s.hostPort = .quiet :: rest ∧ step s = blockStep (takeSlot s)) ∨
    (∃ a rest, s.hostPort = .access a :: rest ∧ step s = hostStep a (takeSlot s)) := by
  unfold step stepOnce
  split
  · next h => exact .inl ⟨h, rfl⟩
  · next rest h => exact .inr (.inl ⟨rest, h, rfl⟩)
  · next a rest h => exact .inr (.inr ⟨a, rest, h, rfl⟩)

/-- A step in which the host is silent or passes its slot is the block's, the slot taken. -/
theorem step_quiet {s : State} (h : HostQuiet s) : step s = blockStep (takeSlot s) := by
  rcases h with h | ⟨rest, h⟩ <;> simp only [step, stepOnce, h]
  exact congrArg blockStep (by rw [takeSlot, h, List.tail_nil, ← h])

/-- What a LOAD can do: nothing while BUSY, its run and LEN within the buffer, and a stray run past it. -/
theorem execLoad_cases (base : Word) (bits : List Bool) (len : Option Word) (s : State) :
    (s.phase = .busy ∧ execLoad base bits len s = .next s) ∨
    (s.phase ≠ .busy ∧ runExists base bits = true ∧ execLoad base bits len s = .next (loadBits s base bits len)) ∨
    (s.phase ≠ .busy ∧ runExists base bits = false ∧
      execLoad base bits len s = .next (loadBeyond s base bits len)) := by
  unfold execLoad
  by_cases hb : s.phase = .busy <;> cases hr : runExists base bits <;> simp [hb]

/-- What the stream at the cursor decodes to is a packet-side row. -/
theorem decodeStream_packetSide {raw : List Bool} {i : Instr} (h : decode (.stream raw) = .ok i) :
    packetSide i = true := by
  simp only [decode, decodeStream] at h
  split at h
  · simp only [Except.ok.injEq] at h
    subst h
    unfold decodeLogical
    split
    · rfl
    · split
      · rfl
      · unfold decodePacket
        split <;> rfl
  · cases h

/-- A scan step answers a next state: the exit, a skip, or the end of an attempt. -/
theorem scanStep_cases (s : State) :
    (scanGoesOn s = false ∧ scanStep s = .next (finishScan s)) ∨
    (scanGoesOn s = true ∧ scanStep s = .next (noPreambleOutcome s)) ∨
    (scanGoesOn s = true ∧ ∃ i t, decode (.stream (rawStream s)) = .ok i ∧ scanStep s = .next t ∧
      exec i s = .next t ∧ AttemptEnd s t) := by
  unfold scanStep
  by_cases hg : scanGoesOn s = true
  · simp only [hg, if_true]
    cases hd : decode (.stream (rawStream s)) with
    | ok i =>
      obtain ⟨t, ht, he⟩ := exec_packetSide_end i s (decodeStream_packetSide hd)
      exact .inr (.inr ⟨trivial, i, t, rfl, ht, ht, he⟩)
    | error e => exact .inr (.inl ⟨trivial, rfl⟩)
  · simp only [Bool.not_eq_true] at hg
    simp [hg]

end Sys2Proof.Machine
end

