-- ==== Sys2Proof/Laws/Pipelines.lean ====
section
/-! SUPPORT. Bounds of the operands, what the weight tables come to, and the rounding lemmas. -/

namespace Sys2Proof.Machine

/-- `1 <= MAXLEN` (R5). -/
theorem maxLen_pos : 1 ≤ Config.maxLen := by
  have := Config.maxLenShortfall.isLt
  unfold Config.maxLen
  omega

/-- `MAXLEN < 2^31` (R5). -/
theorem maxLen_lt : Config.maxLen < 2147483648 := by
  unfold Config.maxLen
  omega

theorem dec3_le (n0 n1 n2 : Nibble) : dec3 n0 n1 n2 ≤ 1665 := by
  have := n0.isLt; have := n1.isLt; have := n2.isLt
  unfold dec3; omega

theorem bcd2_le (n0 n1 : Nibble) : bcd2 n0 n1 ≤ 165 := by
  have := n0.isLt; have := n1.isLt
  unfold bcd2; omega

theorem tempTenths_bounds (t0 t1 t2 sg : Nibble) :
    -1665 ≤ tempTenths t0 t1 t2 sg ∧ tempTenths t0 t1 t2 sg ≤ 1665 := by
  have := dec3_le t0 t1 t2
  unfold tempTenths signed
  split <;> omega

/-- A total of whole millimetres goes through `MM2IN10` as through `MM2IN` (R110). -/
theorem mm2in10_ten_mul (r : Nat) : mm2in10 (10 * r) = mm2in r := by
  unfold mm2in10 mm2in
  rw [show 10 * r * 50 = r * 500 by ring]

/-- The rain total under the weights R111 states. -/
theorem rain5_default (n0 n1 n2 n3 n4 : Nibble) : rain5 Config.rainWeights n0 n1 n2 n3 n4
    = 10 * (1000 * n4.toNat + 100 * n3.toNat + 10 * n2.toNat + n1.toNat + n0.toNat) := by
  unfold rain5 Config.rainWeights
  simp only
  ring

/-- The rain total in hundredths of an inch, as R111, R110 and R122 write it. -/
theorem rainInches_eq (n0 n1 n2 n3 n4 : Nibble) : rainInches n0 n1 n2 n3 n4
    = mm2in (1000 * n4.toNat + 100 * n3.toNat + 10 * n2.toNat + n1.toNat + n0.toNat) := by
  rw [rainInches, rain5_default, mm2in10_ten_mul]

/-- The direction in tenths under the weights R112 states. -/
theorem wdirTenths_default (n0 n1 n2 : Nibble) :
    wdirTenths Config.wdirWeights n0 n1 n2 = 100 * n2.toNat + 10 * n1.toNat + n0.toNat := by
  unfold wdirTenths Config.wdirWeights
  simp only
  ring

/-- A rounded quotient is the floor or one above it. -/
theorem roundNat_cases (ties : Config.RoundTies) (a b : Nat) :
    roundNat ties a b = a / b ∨ roundNat ties a b = a / b + 1 := by
  unfold roundNat
  split
  · exact .inl rfl
  · split
    · exact .inr rfl
    · split
      · exact .inr rfl
      · split <;> simp

/-- Away from a tie the tie rule does not matter (R106). -/
theorem roundNat_no_tie (t u : Config.RoundTies) {a b : Nat} (h : 2 * (a % b) ≠ b) :
    roundNat t a b = roundNat u a b := by
  unfold roundNat
  split
  · rfl
  · split
    · rfl
    · omega

/-- The deviation of an implementation cannot leave the tolerance window (R113, DP1). -/
theorem clampInt_bounds {lo hi v : Int} (h : lo ≤ hi) : lo ≤ clampInt lo hi v ∧ clampInt lo hi v ≤ hi := by
  unfold clampInt
  split
  · omega
  · split <;> omega

/-- Inside the window nothing is moved. -/
theorem clampInt_of_mem {lo hi v : Int} (h1 : lo ≤ v) (h2 : v ≤ hi) : clampInt lo hi v = v := by
  unfold clampInt
  simp [Int.not_lt.mpr h1, Int.not_lt.mpr h2]

end Sys2Proof.Machine
end

