-- ==== Sys2Proof/Laws/DewPoint.lean ====
section
/-! SUPPORT. The fixed-point logarithm of the dew point is the real one to within 10^-20 (R113). -/

namespace Sys2Proof.Machine

/-- The series the fixed-point tail approximates, from the odd power `p` on. -/
noncomputable def artanhSeries (x : ℝ) : Nat → Nat → ℝ → ℝ
  | 0, _, _ => 0
  | terms + 1, k, p => p / (2 * (k : ℝ) + 1) + artanhSeries x terms (k + 1) (p * x ^ 2)

/-- A floor division is off by less than one. -/
theorem floorDiv_close (a b : Int) (hb : 0 < b) : |((a / b : Int) : ℝ) - (a : ℝ) / b| ≤ 1 := by
  have hb' : (0 : ℝ) < b := by exact_mod_cast hb
  have h1 : ((b * (a / b) : Int) : ℝ) ≤ a := by exact_mod_cast Int.mul_ediv_self_le (ne_of_gt hb)
  have h2 : (a : ℝ) < ((b * (a / b) + b : Int) : ℝ) := by
    exact_mod_cast by have := Int.lt_mul_ediv_self_add (x := a) hb; omega
  push_cast at h1 h2
  rw [abs_le]
  constructor
  · rw [neg_le_sub_iff_le_add, div_le_iff₀ hb']; nlinarith
  · rw [sub_le_iff_le_add]
    have : ((a / b : Int) : ℝ) ≤ (a : ℝ) / b := by rw [le_div_iff₀ hb']; nlinarith
    linarith

/-- The fixed-point tail stays within 3 units a term of the series. -/
theorem artanhTail_close (num den : Int) (hd : 0 < den) (hx : |(num : ℝ) / den| ≤ 1 / 2) :
    ∀ (terms k : Nat) (p : Int) (q : ℝ), |(p : ℝ) - q| ≤ 2 →
      |((artanhTail num den terms k p : Int) : ℝ) - artanhSeries ((num : ℝ) / den) terms k q| ≤ 3 * terms := by
  intro terms
  induction terms with
  | zero => intro k p q _; simp [artanhTail, artanhSeries]
  | succ terms ih =>
    intro k p q hpq
    have hd' : (0 : ℝ) < den := by exact_mod_cast hd
    have hk : (1 : ℝ) ≤ 2 * (k : ℝ) + 1 := by have : (0 : ℝ) ≤ k := Nat.cast_nonneg k; linarith
    have hx2 : ((num : ℝ) / den) ^ 2 ≤ 1 / 4 := by
      have := sq_le_sq' (by linarith [abs_nonneg ((num : ℝ) / den)] : -(1 / 2) ≤ |(num : ℝ) / den|) hx
      rw [sq_abs] at this; linarith
    have hx0 : 0 ≤ ((num : ℝ) / den) ^ 2 := sq_nonneg _
    have hnext : |((p * num * num / (den * den) : Int) : ℝ) - q * ((num : ℝ) / den) ^ 2| ≤ 2 := by
      have h1 := floorDiv_close (p * num * num) (den * den) (by positivity)
      have h2 : ((p * num * num : Int) : ℝ) / ((den * den : Int) : ℝ) = p * ((num : ℝ) / den) ^ 2 := by
        push_cast; field_simp
      rw [h2] at h1
      have h3 : |(p : ℝ) * ((num : ℝ) / den) ^ 2 - q * ((num : ℝ) / den) ^ 2| ≤ 2 * (1 / 4) := by
        rw [← sub_mul, abs_mul, abs_of_nonneg hx0]
        exact mul_le_mul hpq hx2 hx0 (by norm_num)
      have := abs_add_le (((p * num * num / (den * den) : Int) : ℝ) - p * ((num : ℝ) / den) ^ 2)
        ((p : ℝ) * ((num : ℝ) / den) ^ 2 - q * ((num : ℝ) / den) ^ 2)
      rw [sub_add_sub_cancel] at this
      linarith
    have hhead : |((p / (2 * (k : Int) + 1) : Int) : ℝ) - q / (2 * (k : ℝ) + 1)| ≤ 3 := by
      have h1 := floorDiv_close p (2 * (k : Int) + 1) (by omega)
      push_cast at h1
      have h3 : |(p : ℝ) / (2 * (k : ℝ) + 1) - q / (2 * (k : ℝ) + 1)| ≤ 2 := by
        rw [← sub_div, abs_div, abs_of_pos (by linarith : (0 : ℝ) < 2 * (k : ℝ) + 1)]
        exact (div_le_self (abs_nonneg _) hk).trans hpq
      have := abs_add_le (((p / (2 * (k : Int) + 1) : Int) : ℝ) - p / (2 * (k : ℝ) + 1))
        ((p : ℝ) / (2 * (k : ℝ) + 1) - q / (2 * (k : ℝ) + 1))
      rw [sub_add_sub_cancel] at this
      linarith
    have htail := ih (k + 1) _ _ hnext
    simp only [artanhTail, artanhSeries]
    push_cast at hhead htail ⊢
    have := abs_add_le (((p / (2 * (k : Int) + 1) : Int) : ℝ) - q / (2 * (k : ℝ) + 1))
      (((artanhTail num den terms (k + 1) (p * num * num / (den * den)) : Int) : ℝ)
        - artanhSeries ((num : ℝ) / den) terms (k + 1) (q * ((num : ℝ) / den) ^ 2))
    rw [show ∀ a b c d : ℝ, (a - b) + (c - d) = (a + c) - (b + d) from fun a b c d => by ring] at this
    linarith

/-- The series from index 0 as a finite sum. -/
theorem artanhSeries_eq_sum (x : ℝ) : ∀ (terms k : Nat) (p : ℝ),
    artanhSeries x terms k p = ∑ j ∈ Finset.range terms, p * x ^ (2 * j) / (2 * ((k + j : Nat) : ℝ) + 1) := by
  intro terms
  induction terms with
  | zero => intro k p; simp [artanhSeries]
  | succ terms ih =>
    intro k p
    rw [artanhSeries, ih, Finset.sum_range_succ']
    rw [add_comm]
    congr 1
    · apply Finset.sum_congr rfl
      intro j _
      rw [show k + 1 + j = k + (j + 1) by omega]
      congr 1
      ring
    · simp

/-- Thirty terms of the series are the logarithm to within 10^-27 for `|x| <= 1/3`. -/
theorem artanhSum_close (x : ℝ) (hx : |x| ≤ 1 / 3) :
    |2 * (∑ j ∈ Finset.range 30, x ^ (2 * j + 1) / (2 * (j : ℝ) + 1))
      - (Real.log (1 + x) - Real.log (1 - x))| ≤ 1 / 10 ^ 27 := by
  have hlt : |x| < 1 := by linarith
  have hs := Real.hasSum_log_sub_log_of_abs_lt_one hlt
  have htail := (hasSum_nat_add_iff' 30).mpr hs
  have hx2 : x ^ 2 ≤ 1 / 9 := by
    have := sq_le_sq' (by linarith [abs_nonneg x] : -(1 / 3) ≤ |x|) hx
    rw [sq_abs] at this; linarith
  have hgeo : HasSum (fun j : ℕ => 2 * (1 / 3 : ℝ) ^ 61 * (1 / 9) ^ j) (2 * (1 / 3 : ℝ) ^ 61 * (1 - 1 / 9)⁻¹) :=
    (hasSum_geometric_of_lt_one (by norm_num) (by norm_num)).mul_left _
  have hb : ∀ j : ℕ, ‖2 * (1 / (2 * ((j + 30 : ℕ) : ℝ) + 1)) * x ^ (2 * (j + 30) + 1)‖
      ≤ 2 * (1 / 3 : ℝ) ^ 61 * (1 / 9) ^ j := by
    intro j
    have hpow : |x| ^ (2 * (j + 30) + 1) ≤ (1 / 3 : ℝ) ^ (2 * (j + 30) + 1) :=
      pow_le_pow_left₀ (abs_nonneg x) hx _
    have hq : (1 / 3 : ℝ) ^ (2 * (j + 30) + 1) = (1 / 3) ^ 61 * (1 / 9) ^ j := by
      rw [show 2 * (j + 30) + 1 = 61 + 2 * j by ring, pow_add, pow_mul]; norm_num
    have hc : 1 / (2 * ((j + 30 : ℕ) : ℝ) + 1) ≤ 1 := by
      rw [div_le_one (by positivity)]
      have : (0 : ℝ) ≤ ((j + 30 : ℕ) : ℝ) := Nat.cast_nonneg _
      linarith
    have hc0 : 0 ≤ 1 / (2 * ((j + 30 : ℕ) : ℝ) + 1) := by positivity
    rw [Real.norm_eq_abs, abs_mul, abs_pow, abs_mul, abs_of_nonneg hc0, abs_two]
    calc 2 * (1 / (2 * ((j + 30 : ℕ) : ℝ) + 1)) * |x| ^ (2 * (j + 30) + 1)
        ≤ 2 * 1 * (1 / 3 : ℝ) ^ (2 * (j + 30) + 1) :=
          mul_le_mul (by linarith) hpow (pow_nonneg (abs_nonneg x) _) (by norm_num)
      _ = 2 * (1 / 3 : ℝ) ^ 61 * (1 / 9) ^ j := by rw [hq]; ring
  have hle := tsum_of_norm_bounded hgeo hb
  rw [htail.tsum_eq] at hle
  rw [abs_sub_comm, Finset.mul_sum]
  have hterm : ∀ j : ℕ, 2 * (x ^ (2 * j + 1) / (2 * (j : ℝ) + 1))
      = 2 * (1 / (2 * (j : ℝ) + 1)) * x ^ (2 * j + 1) := fun j => by ring
  have hsum : ∑ j ∈ Finset.range 30, 2 * (x ^ (2 * j + 1) / (2 * (j : ℝ) + 1))
      = ∑ j ∈ Finset.range 30, 2 * (1 / (2 * (j : ℝ) + 1)) * x ^ (2 * j + 1) :=
    congrArg (Finset.sum (Finset.range 30)) (funext hterm)
  rw [hsum]
  rw [Real.norm_eq_abs] at hle
  exact hle.trans (by norm_num)

/-- The fixed-point artanh, doubled, is the scaled logarithm. -/
theorem artanhScaled_close (num den : Int) (hd : 0 < den) (hx : |(num : ℝ) / den| ≤ 1 / 3) :
    |2 * ((artanhScaled num den : Int) : ℝ)
      - (Real.log (1 + (num : ℝ) / den) - Real.log (1 - (num : ℝ) / den)) * 10 ^ 24| ≤ 181 := by
  have hd' : (0 : ℝ) < den := by exact_mod_cast hd
  have hS : (lnScale : ℝ) = 10 ^ 24 := by norm_num [lnScale]
  have hp : |((num * lnScale / den : Int) : ℝ) - (num : ℝ) / den * 10 ^ 24| ≤ 2 := by
    have h1 := floorDiv_close (num * lnScale) den hd
    push_cast at h1
    rw [hS, show (num : ℝ) * 10 ^ 24 / den = (num : ℝ) / den * 10 ^ 24 by ring] at h1
    linarith
  have h1 := artanhTail_close num den hd (hx.trans (by norm_num)) 30 0 _ _ hp
  rw [artanhSeries_eq_sum] at h1
  have hsum : ∑ j ∈ Finset.range 30, (num : ℝ) / den * 10 ^ 24 * ((num : ℝ) / den) ^ (2 * j)
        / (2 * ((0 + j : Nat) : ℝ) + 1)
      = (∑ j ∈ Finset.range 30, ((num : ℝ) / den) ^ (2 * j + 1) / (2 * (j : ℝ) + 1)) * 10 ^ 24 := by
    rw [Finset.sum_mul]
    exact Finset.sum_congr rfl fun j _ => by rw [Nat.zero_add]; ring
  rw [hsum] at h1
  have h2 := artanhSum_close _ hx
  generalize (∑ j ∈ Finset.range 30, ((num : ℝ) / den) ^ (2 * j + 1) / (2 * (j : ℝ) + 1)) = S at h1 h2
  generalize Real.log (1 + (num : ℝ) / den) - Real.log (1 - (num : ℝ) / den) = Y at h2 ⊢
  unfold artanhScaled
  rw [abs_le] at h1 h2 ⊢
  push_cast at h1
  constructor <;> linarith [h1.1, h1.2, h2.1, h2.2]

/-- What the doublings leave, for every humidity of the domain: a number of [71, 165] and at most 7 of them. -/
theorem doubleUp_spec : ∀ h : Fin 166, h.val ≠ 0 →
    (doubleUp 7 h.val).1 = h.val * 2 ^ (doubleUp 7 h.val).2 ∧ 71 ≤ (doubleUp 7 h.val).1 ∧
    (doubleUp 7 h.val).1 ≤ 165 ∧ (doubleUp 7 h.val).2 ≤ 7 := by decide +kernel

/-- `ln(H/100)` in fixed point is the real logarithm to within 10^-20, on `1 <= H <= 165` (R113). -/
theorem lnHundredths_close (h : Nat) (h1 : 1 ≤ h) (h2 : h ≤ 165) :
    |((lnHundredths h : Int) : ℝ) - Real.log ((h : ℝ) / 100) * 10 ^ 24| ≤ 10 ^ 4 := by
  obtain ⟨hm, hlo, hhi, he⟩ := doubleUp_spec ⟨h, by omega⟩ (by simp; omega)
  simp only at hm hlo hhi he
  unfold lnHundredths
  generalize (doubleUp 7 h).1 = m at *
  generalize (doubleUp 7 h).2 = e at *
  have hmlo : (71 : ℝ) ≤ m := by exact_mod_cast hlo
  have hmhi : (m : ℝ) ≤ 165 := by exact_mod_cast hhi
  have hA := artanhScaled_close ((m : Int) - 100) ((m : Int) + 100) (by omega) (by
    push_cast
    rw [abs_le, le_div_iff₀ (by linarith), div_le_iff₀ (by linarith)]
    constructor <;> linarith)
  have hB := artanhScaled_close 1 3 (by norm_num) (by norm_num)
  have hlogA : Real.log (1 + (((m : Int) - 100 : Int) : ℝ) / (((m : Int) + 100 : Int) : ℝ))
      - Real.log (1 - (((m : Int) - 100 : Int) : ℝ) / (((m : Int) + 100 : Int) : ℝ))
      = Real.log ((m : ℝ) / 100) := by
    push_cast
    have hne : (m : ℝ) + 100 ≠ 0 := by linarith
    have hpa : 1 + ((m : ℝ) - 100) / (m + 100) = 2 * m / (m + 100) := by field_simp; ring
    have hpb : 1 - ((m : ℝ) - 100) / (m + 100) = 200 / (m + 100) := by field_simp; ring
    rw [hpa, hpb, ← Real.log_div (by positivity) (by positivity)]
    congr 1
    field_simp
    ring
  have hlogB : Real.log (1 + ((1 : Int) : ℝ) / ((3 : Int) : ℝ)) - Real.log (1 - ((1 : Int) : ℝ) / ((3 : Int) : ℝ))
      = Real.log 2 := by
    rw [← Real.log_div (by norm_num) (by norm_num)]
    norm_num
  rw [hlogA] at hA
  rw [hlogB] at hB
  have hlog : Real.log ((h : ℝ) / 100) = Real.log ((m : ℝ) / 100) - e * Real.log 2 := by
    have hmr : (m : ℝ) = h * 2 ^ e := by exact_mod_cast hm
    have hpos : (0 : ℝ) < h := by exact_mod_cast h1
    rw [hmr, show (h : ℝ) * 2 ^ e / 100 = h / 100 * 2 ^ e by ring,
      Real.log_mul (by positivity) (by positivity), Real.log_pow]
    ring
  rw [hlog]
  have he' : (e : ℝ) ≤ 7 := by exact_mod_cast he
  have he0 : (0 : ℝ) ≤ e := Nat.cast_nonneg e
  push_cast
  generalize ((artanhScaled ((m : Int) - 100) ((m : Int) + 100) : Int) : ℝ) = A at hA ⊢
  generalize ((artanhScaled 1 3 : Int) : ℝ) = B at hB ⊢
  have hC : |(e : ℝ) * (2 * B - Real.log 2 * 10 ^ 24)| ≤ 7 * 181 := by
    rw [abs_mul, abs_of_nonneg he0]
    exact mul_le_mul he' hB (abs_nonneg _) (by norm_num)
  rw [abs_le] at hA hC ⊢
  constructor <;> nlinarith [hA.1, hA.2, hC.1, hC.2]

end Sys2Proof.Machine
end

