-- ==== Sys2Proof/Laws/PerInstr.lean ====
section
/-! SUPPORT. Facts about each instruction as syntax, one lemma per constructor. -/

namespace Sys2Proof.Laws.RawLength

/-- The raw length of the encoded packet: the last length column of R52 for the known types, `2 L` for UNK, the
window and the frame for the two scanner rows; a host operation is no stream. -/
def expected : Instr → Option Nat
  | .preamble => some 32
  | .sync => some 40
  | .indoor _ _ _ => some 224
  | .rain _ _ _ => some 200
  | .wind _ _ _ => some 208
  | .out2 _ _ _ => some 192
  | .out1 _ _ _ => some 192
  | .unk _ tail => some (2 * (36 + tail.length))
  | .load _ _ _ => none
  | .start _ => none
  | .setVerbose _ => none
  | .srst => none
  | .readF _ => none
  | .readValid => none
  | .readStatus => none
  | .readCursor => none
  | .readLen => none
  | .readCtrl => none

/-- The raw length of a code, `none` for a host access. -/
def codeLength : Code → Option Nat
  | .stream raw => some raw.length
  | .access _ => none

/-- The encoding of an instruction has the raw length R52 gives its row. -/
def Statement (i : Instr) : Prop := codeLength (encode i) = expected i

/-- The encoding of a nibble list has eight raw bits a nibble. -/
theorem codeLength_enc (ns : List Nibble) : codeLength (.stream (enc ns)) = some (8 * ns.length) := by
  simp [codeLength]

/-- A packet of a known type: five frame nibbles, eight of id and header, the data, checksum and postamble. -/
theorem codeLength_packet (t : SensorType) (h : Header) (data : List Nibble) (c : Check) :
    codeLength (.stream (enc (packetNibbles t h data c))) = some (8 * (data.length + 17)) := by
  rw [codeLength_enc]
  simp [packetNibbles, frameNibbles, summedNibbles, idNibbles, headerNibbles]

theorem preamble : Statement .preamble := rfl

theorem sync : Statement .sync := codeLength_enc frameNibbles

theorem indoor (h : Header) (d : IndoorData) (c : Check) : Statement (.indoor h d c) :=
  codeLength_packet .indoor h (indoorNibbles d) c

theorem rain (h : Header) (d : RainData) (c : Check) : Statement (.rain h d c) :=
  codeLength_packet .rain h (rainNibbles d) c

theorem wind (h : Header) (d : WindData) (c : Check) : Statement (.wind h d c) :=
  codeLength_packet .wind h (windNibbles d) c

theorem out2 (h : Header) (d : Out2Data) (c : Check) : Statement (.out2 h d c) :=
  codeLength_packet .out2 h (out2Nibbles d) c

theorem out1 (h : Header) (d : Out1Data) (c : Check) : Statement (.out1 h d c) :=
  codeLength_packet .out1 h (out1Nibbles d) c

theorem unk (id : BitVec 16) (tail : List Bool) : Statement (.unk id tail) := by
  simp [Statement, codeLength, encode, expected, unkBits, frameNibbles, idNibbles]
  omega

theorem load (base : Word) (bits : List Bool) (len : Option Word) : Statement (.load base bits len) := rfl

theorem start (verbose : Bool) : Statement (.start verbose) := rfl

theorem setVerbose (verbose : Bool) : Statement (.setVerbose verbose) := rfl

theorem srst : Statement .srst := rfl

theorem readF (n : BitVec 4) : Statement (.readF n) := rfl

theorem readValid : Statement .readValid := rfl

theorem readStatus : Statement .readStatus := rfl

theorem readCursor : Statement .readCursor := rfl

theorem readLen : Statement .readLen := rfl

theorem readCtrl : Statement .readCtrl := rfl

end Sys2Proof.Laws.RawLength
end

