-- ==== Sys2Proof/Tests/Slice0.lean ====
section
/-! SUPPORT. The model's own tests, on values taken from spec/95_test_vectors.md. -/

namespace Sys2Proof.Tests

open Sys2Proof.Machine

/-! ### Helpers -/

/-- A bit string of the spec, leftmost bit first. -/
def line (n w : Nat) : List Bool := (wordBits n w).reverse

/-- Bits as the cells from address `a` on. -/
def cells : Nat → List Bool → Memory
  | _, [] => []
  | a, b :: rest => (a, b) :: cells (a + 1) rest

/-- A busy scan of `raw` at cursor 0. -/
def scanOf (raw : List Bool) (verbose : Bool) : State :=
  { State.reset with phase := .busy, verbose := verbose, len := BitVec.ofNat 32 raw.length,
                     bitbuf := cells 0 raw }

/-- Program P1's raw bits (95, section 3). -/
def p1Raw : List Bool :=
  line 64 0b1010101010101010101010101010101001100110100101011001101010100101 ++
  line 64 0b0101010110010101010110010110011001010101100110011001010101100101 ++
  line 64 0b0101010110011001010110010101010110010101101001010101010101010101

/-- The logical bits of a packet. -/
def logical (n w : Nat) : Code := .stream (doubleBits (line n w))

/-! ### Decode: words written out from the encoding strings of the opcode table (R62) and vectors of 2.2, 2.6 -/

theorem test_decode_preamble_window :
    decode (.stream (line 32 0b10101010101010101010101010101010)) = .ok .preamble := by decide

theorem test_decode_window_shifted_refused :
    decode (.stream (line 32 0b01010101010101010101010101010101)) = .error .noPreamble := by decide

theorem test_decode_sync : decode (logical 20 0b11111111111111110101) = .ok .sync := by decide

theorem test_decode_bad_sync_is_preamble_row :
    decode (logical 36 0b111111111111111111011000101111000000) = .ok .preamble := by decide

/-- V-X1: INDOOR, channel 0, rolling 7 3, data 3 2 2 0 8 3 4 7 5 0 6, checksum a 4. -/
theorem test_decode_indoor :
    decode (logical 112 0b1111111111111111010110101011011000000000111011000000110001000100000000011100001011101010000001100101001000000000)
      = .ok (.indoor ⟨0, 7, 3, 0⟩ ⟨3, 2, 2, 0, 8, 3, 4, 7, 5, 0, 6⟩ ⟨0xa, 4⟩) := by decide

/-- V-X4: RAIN, rolling 2 9, data 5 2 0 4 7 3 1 0, checksum 1 3. -/
theorem test_decode_rain :
    decode (logical 100 0b1111111111111111010101001011100000000000010010010000101001000000001011101100100000001000110000000000)
      = .ok (.rain ⟨0, 2, 9, 0⟩ ⟨5, 2, 0, 4, 7, 3, 1, 0⟩ ⟨1, 3⟩) := by decide

/-- V-X5: WIND, rolling b 5, data 5 4 2 7 3 0 2 2 0, checksum 9 3. -/
theorem test_decode_wind :
    decode (logical 104 0b11111111111111110101110010110000000000001101101000001010001001001110110000000100010000001001110000000000)
      = .ok (.wind ⟨0, 0xb, 5, 0⟩ ⟨5, 4, 2, 7, 3, 0, 2, 2, 0⟩ ⟨9, 3⟩) := by decide

/-- V-X13: OUT2, channel 2, rolling c 1, data 0 0 0 0 0 5 0, checksum 4 2. -/
theorem test_decode_out2 :
    decode (logical 96 0b111111111111111101011000101101000000010000111000000000000000000000000000101000000010010000000000)
      = .ok (.out2 ⟨2, 0xc, 1, 0⟩ ⟨0, 0, 0, 0, 0, 5, 0⟩ ⟨4, 2⟩) := by decide

/-- P1: OUT1 from its raw bits. -/
theorem test_decode_out1 :
    decode (.stream p1Raw) = .ok (.out1 ⟨1, 4, 0xa, 0⟩ ⟨5, 1, 2, 0, 5, 4, 0⟩ ⟨1, 3⟩) := by decide

/-- V-ID7: the nibble-reversed 1d30 is unknown. -/
theorem test_decode_unk :
    decode (logical 40 0b1111111111111111010100001011110010001010) = .ok (.unk 0x0D31 [true, false, true, false]) := by
  decide

theorem test_decode_len_write :
    decode (.access (.write 0x02 192)) = .ok (.load 0 [] (some 192)) := by decide

/-- V-HO8: one CTRL write with several bits. -/
theorem test_decode_ctrl_writes :
    decode (.access (.write 0 0x3)) = .ok (.start true) ∧ decode (.access (.write 0 0x1)) = .ok (.start false) ∧
    decode (.access (.write 0 0x2)) = .ok (.setVerbose true) ∧ decode (.access (.write 0 0x7)) = .ok .srst ∧
    decode (.access (.write 0 0x5)) = .ok .srst ∧
    decode (.access (.write 0 0xFFFFFFF8)) = .ok (.setVerbose false) := by decide

theorem test_decode_reads :
    decode (.access (.read 0x00)) = .ok .readCtrl ∧ decode (.access (.read 0x01)) = .ok .readStatus ∧
    decode (.access (.read 0x02)) = .ok .readLen ∧ decode (.access (.read 0x03)) = .ok .readCursor ∧
    decode (.access (.read 0x04)) = .ok .readValid ∧ decode (.access (.read 0x1A)) = .ok (.readF 10) ∧
    decode (.access (.read 0x05)) = .error (.reservedRead 0x05) ∧
    decode (.access (.write 0x01 1)) = .error (.ignoredWrite 0x01) := by decide

/-- The words of the table as it writes them (R62). -/
theorem test_table_words :
    decodeTableWord 32 0x55555555 = some .preamble ∧ decodeTableWord 24 0xAFFFF = some .sync ∧
    decodeTableWord 40 0x03D1AFFFF = some (.out1 ⟨0, 0, 0, 0⟩ ⟨0, 0, 0, 0, 0, 0, 0⟩ ⟨0, 0⟩) ∧
    decodeTableWord 32 0x1 = some (.start false) ∧ decodeTableWord 8 0x10 = some (.readF 0) := by decide

/-! ### WellFormed refuses an ill-formed term for each check -/

theorem test_wellFormed_refuses_known_id : (Instr.unk 0x1D30 []).wellFormed = false := by decide

theorem test_wellFormed_refuses_unaddressable_run :
    (Instr.load 0x7FFFFFFF [true] none).wellFormed = false := by decide

/-! ### Encode: the spec's packets -/

theorem test_encode_p1 :
    enc (packetNibbles .out1 ⟨1, 4, 0xa, 0⟩ (out1Nibbles ⟨5, 1, 2, 0, 5, 4, 0⟩) ⟨1, 3⟩) = p1Raw := by decide +kernel

/-! ### Numeric utilities (2.5) and the checksum (2.4) -/

theorem test_c2f : c2f 215 = 7070 ∧ c2f (-215) = -670 ∧ c2f (-178) = -4 ∧ c2f (-1665) = -26770 := by decide

theorem test_ms2mph : ms2mph 1 = 22 ∧ ms2mph 37 = 828 ∧ ms2mph 22 = 492 ∧ ms2mph 1665 = 37245 := by decide

theorem test_mbar2inhg : mbar2inhg 856 = 2528 ∧ mbar2inhg 913 = 2696 ∧ mbar2inhg 1021 = 3015 := by decide

theorem test_mm2in : mm2in 141 = 555 ∧ mm2in 16680 = 65669 ∧ mm2in10 25 = 10 ∧ mm2in10 1665 = 656 := by decide

theorem test_rain5 : rainInches 4 7 3 1 0 = 555 ∧ rainInches 15 15 15 15 15 = 65669 := by decide

theorem test_round_ties :
    roundQ .halfAwayFromZero 245 10 = 25 ∧ roundQ .halfToEven 245 10 = 24 ∧ roundQ .halfToEven 255 10 = 26 ∧
    roundQ .halfToEven 5 10 = 0 ∧ roundQ .halfAwayFromZero 15 10 = 2 := by decide

theorem test_signed : signed 215 8 = -215 ∧ signed 215 1 = -215 ∧ signed 0 8 = 0 ∧ signed 215 0 = 215 := by decide

theorem test_dewptRef_table :
    dewptRef 215 45 = 4834 ∧ dewptRef (-215) 45 = -2251 ∧ dewptRef (-32) 81 = 2121 ∧
    dewptRef 300 1 = -2548 ∧ dewptRef 1665 165 = 36868 ∧ dewptRef (-1665) 1 = -27825 := by decide +kernel

theorem test_checksum_folds :
    foldSum 49 = 0x31 ∧ foldSum 255 = 0xFF ∧ foldSum 256 = 1 ∧ foldSum 285 = 0x1E ∧ foldSum 511 = 0x100 := by
  decide

theorem test_id_text : idText 0x1D30 = "1d30" ∧ idText 0x0D30 = "0d30" := by decide +kernel

theorem test_lookup_texts :
    comfortText 4 = some "comfortable" ∧ forecastText 6 = some "partly cloudy" ∧ comfortText 6 = none := by decide

/-! ### One step -/

/-- What is left of a next state, or `none`. -/
def after (o : Host.Outcome State Fault Refusal) : Option State :=
  match o with
  | .next s => some s
  | .fault _ => none
  | .refused _ => none

/-- V-CS1: P1 at cursor 0 commits and advances. -/
theorem test_step_p1 : ((after (step (scanOf p1Raw false))).map fun t =>
    (t.readings.tempf, t.readings.humidity, t.readings.dewptf.isSome, t.cursor, t.diag.length))
      = some (some 7070, some 45, true, 1, 0) := by decide +kernel

/-- V-SC3: 33 raw bits, TRUNCATED at stage sync. -/
theorem test_step_truncated_sync :
    ((after (step (scanOf (preambleBits ++ [false]) true))).map fun t => t.diag.map fun r => (r.L, r.info))
      = some [(17, .truncated .sync)] := by decide

/-- V-SC1: exactly 32 raw bits are never tested. -/
theorem test_step_exit :
    ((after (step (scanOf preambleBits true))).map fun t => (t.phase, t.cursor, t.diag))
      = some (.done, 0, []) := by decide

/-- V-SY1: sync nibble 0xB. -/
theorem test_step_bad_sync :
    ((after (step (scanOf (enc ([0xf, 0xf, 0xf, 0xf, 0xb, 1, 0xd, 3, 0])) true))).map fun t =>
      t.diag.map fun r => (r.outcome, r.info)) = some [(.badSync, .badSync 0xB)] := by decide +kernel

/-- V-CS2: d0 is 4 where the checksum was made for 5. -/
theorem test_exec_out1_mismatch :
    ((after (exec (.out1 ⟨1, 4, 0xa, 0⟩ ⟨4, 1, 2, 0, 5, 4, 0⟩ ⟨1, 3⟩) (scanOf p1Raw true))).map fun t =>
      (t.readings, t.diag.map fun r => r.info))
      = some (Readings.empty, [.checksumMismatch 0 3 1 3]) := by decide +kernel

/-- V-X1. -/
theorem test_exec_indoor :
    ((after (exec (.indoor ⟨0, 7, 3, 0⟩ ⟨3, 2, 2, 0, 8, 3, 4, 7, 5, 0, 6⟩ ⟨0xa, 4⟩)
      { State.reset with phase := .busy, len := 224 })).map fun t =>
      (t.readings.indoortempf, t.readings.indoorhumidity, t.readings.baromin))
      = some (some 7214, some 38, some 2696) := by decide

/-- V-X4. -/
theorem test_exec_rain :
    ((after (exec (.rain ⟨0, 2, 9, 0⟩ ⟨5, 2, 0, 4, 7, 3, 1, 0⟩ ⟨1, 3⟩)
      { State.reset with phase := .busy, len := 200, verbose := true })).map fun t =>
      (t.readings.dailyrainin, t.diag.map fun r => (r.info, r.consumed)))
      = some (some 555, [(.rain 10, 200)]) := by decide

/-- V-X5 with a direction that does not tie (0, 4, 2). -/
theorem test_exec_wind :
    ((after (exec (.wind ⟨0, 0xb, 5, 0⟩ ⟨0, 4, 2, 7, 3, 0, 2, 2, 0⟩ ⟨4, 3⟩)
      { State.reset with phase := .busy, len := 208 })).map fun t =>
      (t.readings.winddir, t.readings.windgustmph, t.readings.windspeedmph))
      = some (some 24, some 828, some 492) := by decide

/-- V-X13: OUT2 writes temp2f only. -/
theorem test_exec_out2 :
    ((after (exec (.out2 ⟨2, 0xc, 1, 0⟩ ⟨0, 0, 0, 0, 0, 5, 0⟩ ⟨4, 2⟩)
      { State.reset with phase := .busy, len := 192, verbose := true })).map fun t =>
      (t.readings, t.diag.map fun r => r.info))
      = some ({ Readings.empty with temp2f := some 3200 }, [.out2 50]) := by decide

/-- V-X10: humidity 0 leaves dewptf absent. -/
theorem test_exec_out1_humidity_zero :
    ((after (exec (.out1 ⟨1, 4, 0xa, 0⟩ ⟨5, 1, 2, 0, 0, 0, 0⟩ ⟨8, 2⟩)
      { State.reset with phase := .busy, len := 192 })).map fun t => t.readings)
      = some { Readings.empty with tempf := some 7070, humidity := some 0 } := by decide

/-- V-X11: humidity 100 makes the dew point the temperature. -/
theorem test_exec_out1_saturated :
    ((after (exec (.out1 ⟨1, 4, 0xa, 0⟩ ⟨5, 1, 2, 0, 0, 0xa, 0⟩ ⟨2, 3⟩)
      { State.reset with phase := .busy, len := 192 })).map fun t => t.readings.dewptf)
      = some (some 7070) := by decide

/-- V-UN1: the unknown packet of P4 validates. -/
theorem test_step_unknown_sensor :
    ((after (step (scanOf (enc [0xf, 0xf, 0xf, 0xf, 0xa, 0xe, 0xc, 4, 0, 3, 1, 2, 0, 9, 9, 9, 9, 8, 4, 0, 0]) true))).map
      fun t => (t.readings, t.diag.map fun r => (r.outcome, r.ds, r.consumed)))
      = some (Readings.empty, [(.unknownSensor, some 68, 168)]) := by decide +kernel

/-- V-UN2: one more raw bit and it does not. -/
theorem test_step_unknown_mismatch :
    ((after (step (scanOf (enc [0xf, 0xf, 0xf, 0xf, 0xa, 0xe, 0xc, 4, 0, 3, 1, 2, 0, 9, 9, 9, 9, 8, 4, 0, 0]
      ++ [true]) true))).map fun t => t.diag.map fun r => (r.outcome, r.ds))
      = some [(.checksumMismatch, some 69)] := by decide +kernel

/-- V-HO1: STATUS after reset, through the host port. -/
theorem test_step_read_status :
    ((after (step { State.reset with hostPort := [.access (.read 0x01)] })).map fun t => (t.readPort, t.hostPort))
      = some (some 0, []) := by decide

/-- V-HO2: START from reset. -/
theorem test_step_start :
    ((after (step { State.reset with hostPort := [.access (.write 0x00 0x3)] })).map fun t => (t.phase, t.verbose))
      = some (.busy, true) := by decide

/-- V-HO5: a START while BUSY has no effect. -/
theorem test_exec_start_busy :
    ((after (exec (.start false) { State.reset with phase := .busy, verbose := true, cursor := 5 })).map fun t =>
      (t.verbose, t.cursor)) = some (true, 5) := by decide

/-- V-HO6. -/
theorem test_exec_srst :
    ((after (exec .srst { State.reset with phase := .busy, verbose := true, len := 9, cursor := 5, bitbuf := [(0, true)] })).map
      fun t => ((t.phase, t.verbose), (t.len, t.cursor), Memory.find t.bitbuf 0))
      = some ((.idle, false), (0, 0), some true) := by decide

/-- V-HO3: VALID after P1 is 0b111. -/
theorem test_exec_read_valid :
    ((after (exec .readValid { State.reset with phase := .done, readings :=
      { Readings.empty with tempf := some 7070, humidity := some 45, dewptf := some 4834 } })).map fun t => t.readPort)
      = some (some 0b111) := by decide

/-- V-HO3: a register not in the map reads as `none`; a reserved number reads 0. -/
theorem test_exec_read_f :
    ((after (exec (.readF 3) State.reset)).map fun t => t.readPort) = some none ∧
    ((after (exec (.readF 11) State.reset)).map fun t => t.readPort) = some (some 0) := by decide

/-- A table word placed at the fetch runs. -/
theorem test_withFetchWord_runs :
    ((after (step (State.reset.withFetchWord 32 0x55555555))).map fun t => t.cursor) = some 1 ∧
    ((after (step (State.reset.withFetchWord 8 0x03))).map fun t => t.readPort) = some (some 0) := by decide +kernel

/-! ### Witnesses: the hypotheses of each statement are met, each clause at a boundary of its range -/

/-- A busy block with `n` raw bits and nothing written. -/
def busyOf (n : Nat) : State := { State.reset with phase := .busy, len := BitVec.ofNat 32 n }

theorem witness_DecodeEncode :
    (Instr.unk 0xEC40 []).wellFormed = true ∧ (Instr.load 0x7FFFFFFE [true] (some 1)).wellFormed = true := by decide

theorem witness_StreamDecodesWellFormed : decode (.stream preambleBits) = .ok .preamble := by decide

/-- The window word of sixteen `10` pairs, and a stream that differs from it behind the window only. -/
theorem witness_PreambleTestExact : (∀ k < 32, preambleBits[k]? = some ((0x55555555#32).getLsbD k)) ∧
    (preambleBits ++ [true]).take 32 = preambleBits.take 32 := by decide

theorem witness_LogicalStreamView :
    (busyOf 33).cursor.toNat + 32 < (busyOf 33).len.toNat ∧ 16 < ((busyOf 33).len.toNat - (busyOf 33).cursor.toNat + 1) / 2 := by
  decide

/-- Two buffers that differ in a complement bit behind the window. -/
theorem witness_ComplementBitsIgnored : ∃ s t : State, s.len = t.len ∧ s.cursor = t.cursor ∧ s.bitbuf ≠ t.bitbuf ∧
    (∀ k < 32, Memory.bit s.bitbuf (s.cursor.toNat + k) = Memory.bit t.bitbuf (s.cursor.toNat + k)) ∧
    (∀ k, Memory.bit s.bitbuf (s.cursor.toNat + 2 * k) = Memory.bit t.bitbuf (s.cursor.toNat + 2 * k)) := by
  refine ⟨busyOf 40, { busyOf 40 with bitbuf := Memory.write [] 33 true }, rfl, rfl, by decide, ?_, ?_⟩
  · intro k hk
    exact (bit_write_other [] true (by show 0 + k ≠ 33; omega)).symm
  · intro k
    exact (bit_write_other [] true (by show 0 + 2 * k ≠ 33; omega)).symm

/-- Both ways in which the host leaves a step to the block. -/
theorem witness_HostQuiet : HostQuiet State.reset ∧ HostQuiet { State.reset with hostPort := [.quiet] } :=
  ⟨.inl rfl, .inr ⟨[], rfl⟩⟩

theorem witness_BeyondLenUnread : HostQuiet State.reset ∧
    (∀ a < State.reset.len.toNat, Memory.bit [(0, true)] a = Memory.bit State.reset.bitbuf a) ∧
    step State.reset = .next State.reset :=
  ⟨.inl rfl, fun a h => absurd h (by simp), rfl⟩

theorem witness_CtrlWriteOrder :
    (0x7 : Word).getLsbD 2 = true ∧ ((0x3 : Word).getLsbD 2 = false ∧ (0x3 : Word).getLsbD 0 = true) ∧
    ((0xFFFFFFFA : Word).getLsbD 2 = false ∧ (0xFFFFFFFA : Word).getLsbD 0 = false) := by decide

/-- One, two, three and four extra pairs, each clause of the conclusion. -/
theorem witness_EarlyRedetectionIsBadSync :
    ([1, 2, 3, 4].map fun m => (nib (deinterleave ((List.replicate m [true, false]).flatten ++ enc frameNibbles)) 16).toNat)
      = [5, 0xB, 7, 0xF] := by decide

theorem witness_StepRunsHostAccess : ∃ (s : State) (rest : List HostSlot), s.hostPort = .access (.read 0x01) :: rest ∧ s.phase = .busy ∧
    decode (.access (.read 0x01)) = .ok .readStatus :=
  ⟨{ busyOf 33 with hostPort := [.access (.read 0x01)] }, [], rfl, rfl, by decide⟩

theorem witness_StepRunsDecodedPacket : (scanOf p1Raw false).phase = .busy ∧
    (scanOf p1Raw false).cursor.toNat + 32 < (scanOf p1Raw false).len.toNat ∧ (scanOf p1Raw false).hostPort = [] ∧
    { scanOf p1Raw false with hostPort := [.quiet] }.hostPort = .quiet :: [] ∧
    decode (.stream (rawStream (scanOf p1Raw false))) = .ok (.out1 ⟨1, 4, 0xa, 0⟩ ⟨5, 1, 2, 0, 5, 4, 0⟩ ⟨1, 3⟩) := by
  refine ⟨rfl, ?_, rfl, rfl, ?_⟩ <;> decide +kernel

/-- Reads of 0x05, 0x0F, 0x1B and 0xFF; writes to 0x01 and 0x03. -/
theorem witness_StepOutsideRegisterMap :
    (∀ r ∈ [0x05#8, 0x0F#8, 0x1B#8, 0xFF#8], 5 ≤ r.toNat ∧ (r.toNat < 16 ∨ 26 < r.toNat)) ∧
    (∀ r ∈ [0x01#8, 0x03#8], r ≠ 0x00#8 ∧ r ≠ 0x02#8) ∧
    { State.reset with hostPort := [.access (.read 0x05)] }.hostPort = .access (.read 0x05) :: [] ∧
    { State.reset with hostPort := [.access (.write 0x01 0)] }.hostPort = .access (.write 0x01 0) :: [] := by
  refine ⟨by decide, by decide, rfl, rfl⟩

theorem witness_StepNoPreamble : (scanOf (zeroBits 33) true).phase = .busy ∧ HostQuiet (scanOf (zeroBits 33) true) ∧
    (scanOf (zeroBits 33) true).cursor.toNat + 32 < (scanOf (zeroBits 33) true).len.toNat ∧
    preambleTest (rawStream (scanOf (zeroBits 33) true)) = false := by
  refine ⟨rfl, .inl rfl, ?_, ?_⟩ <;> decide +kernel

theorem witness_EveryScanStepAdvances : (busyOf 33).phase = .busy ∧
    HostQuiet { busyOf 33 with hostPort := [.quiet] } ∧ (busyOf 33).cursor.toNat + 32 < (busyOf 33).len.toNat :=
  ⟨rfl, .inr ⟨[], rfl⟩, by decide⟩

theorem witness_StepExitAndQuiescence :
    (HostQuiet (busyOf 32) ∧ (busyOf 32).phase = .busy ∧ (busyOf 32).len.toNat ≤ (busyOf 32).cursor.toNat + 32) ∧
    (HostQuiet State.reset ∧ State.reset.phase ≠ .busy) :=
  ⟨⟨.inl rfl, rfl, by decide⟩, .inl rfl, by decide⟩

theorem witness_RowsRefineDecode : decode (.stream (rawStream (scanOf p1Raw false)))
    = .ok (.out1 ⟨1, 4, 0xa, 0⟩ ⟨5, 1, 2, 0, 5, 4, 0⟩ ⟨1, 3⟩) := by decide +kernel

theorem witness_PreambleTruncated : logicalLength (busyOf 38) = 19 := by decide

theorem witness_PreambleBadSync :
    logicalLength (scanOf (enc [0xf, 0xf, 0xf, 0xf, 0xb]) true) = 20 ∧
    nib (logicalStream (scanOf (enc [0xf, 0xf, 0xf, 0xf, 0xb]) true)) 16 ≠ 0xA#4 := by decide +kernel

theorem witness_SyncTruncated : logicalLength (busyOf 70) = 35 := by decide

theorem witness_StagesContinue : 36 ≤ logicalLength (scanOf p1Raw true) ∧
    preambleTest (rawStream (scanOf p1Raw true)) = true ∧ nib (logicalStream (scanOf p1Raw true)) 16 = 0xA#4 := by
  decide +kernel

/-- V-TR3: the least raw spans that decode, and one bit less. -/
theorem witness_packet_spans :
    logicalLength (busyOf 207) = 104 ∧ logicalLength (busyOf 183) = 92 ∧ logicalLength (busyOf 191) = 96 ∧
    logicalLength (busyOf 175) = 88 ∧ logicalLength (busyOf 206) = 103 ∧ logicalLength (busyOf 182) = 91 ∧
    logicalLength (busyOf 190) = 95 ∧ logicalLength (busyOf 174) = 87 := by decide

theorem witness_IndoorDecoded : 104 ≤ logicalLength (busyOf 207) := by decide

theorem witness_RainDecoded : 92 ≤ logicalLength (busyOf 183) := by decide

theorem witness_WindDecoded : 96 ≤ logicalLength (busyOf 191) := by decide

theorem witness_Out2Decoded : 88 ≤ logicalLength (busyOf 175) := by decide

/-- Humidity 0 and humidity 1, a negative temperature. -/
theorem witness_Out1Decoded : 88 ≤ logicalLength (busyOf 175) ∧
    (∀ d : Out1Data, d = ⟨5, 1, 2, 8, 0, 0, 0⟩ →
      (-215 : Int) = (if d.sg = 0#4 then 1 else -1) * ((100 * d.t2.toNat + 10 * d.t1.toNat + d.t0.toNat : Nat) : Int) ∧
      0 = 10 * d.h1.toNat + d.h0.toNat) ∧
    (∀ d : Out1Data, d = ⟨5, 1, 2, 0, 1, 0, 0⟩ →
      (215 : Int) = (if d.sg = 0#4 then 1 else -1) * ((100 * d.t2.toNat + 10 * d.t1.toNat + d.t0.toNat : Nat) : Int) ∧
      1 = 10 * d.h1.toNat + d.h0.toNat) := by
  refine ⟨by decide, ?_, ?_⟩ <;> (rintro d rfl; decide)

theorem witness_KnownPacketTruncated :
    logicalLength (busyOf 206) < 104 ∧ logicalLength (busyOf 182) < 92 ∧ logicalLength (busyOf 190) < 96 ∧
    logicalLength (busyOf 174) < 88 := by decide

theorem witness_KnownPacketMismatch :
    (104 ≤ logicalLength (busyOf 207) ∧
      (⟨0, 0⟩ : Check) ≠ checksum (summedNibbles 0x5D60#16 ⟨0, 0, 0, 0⟩ (indoorNibbles ⟨0, 0, 0, 0, 0, 0, 0, 0, 0, 0, 0⟩))) ∧
    (92 ≤ logicalLength (busyOf 183) ∧
      (⟨0, 0⟩ : Check) ≠ checksum (summedNibbles 0x2D10#16 ⟨0, 0, 0, 0⟩ (rainNibbles ⟨0, 0, 0, 0, 0, 0, 0, 0⟩))) ∧
    (96 ≤ logicalLength (busyOf 191) ∧
      (⟨0, 0⟩ : Check) ≠ checksum (summedNibbles 0x3D00#16 ⟨0, 0, 0, 0⟩ (windNibbles ⟨0, 0, 0, 0, 0, 0, 0, 0, 0⟩))) ∧
    (88 ≤ logicalLength (busyOf 175) ∧
      (⟨0, 0⟩ : Check) ≠ checksum (summedNibbles 0x1D20#16 ⟨0, 0, 0, 0⟩ (out2Nibbles ⟨0, 0, 0, 0, 0, 0, 0⟩)) ∧
      (⟨0, 0⟩ : Check) ≠ checksum (summedNibbles 0x1D30#16 ⟨0, 0, 0, 0⟩ (out1Nibbles ⟨0, 0, 0, 0, 0, 0, 0⟩))) := by decide

/-- V-UN1's packet for the equal case, the same with another checksum nibble for the other; and the least `L`. -/
theorem witness_UnknownPacketOutcome :
    logicalLength (busyOf 168) = 84 ∧ logicalLength (busyOf 31) = 16 ∧
    (∀ l, l = unkBits 0xEC40 (nibblesBits [3, 1, 2, 0, 9, 9, 9, 9, 8, 4, 0, 0]) → checkOf l (84 - 16)
      = checksum ((List.range ((84 - 36) / 4)).map fun j => nib l (20 + 4 * j))) ∧
    (∀ l, l = unkBits 0xEC40 (nibblesBits [3, 1, 2, 0, 9, 9, 9, 9, 7, 4, 0, 0]) → checkOf l (84 - 16)
      ≠ checksum ((List.range ((84 - 36) / 4)).map fun j => nib l (20 + 4 * j))) := by
  refine ⟨by decide, by decide, ?_, ?_⟩ <;> (rintro l rfl; decide +kernel)

theorem witness_PacketRowsCompleteAndFrame : packetSide .preamble = true ∧ packetSide (.unk 0xEC40 []) = true := by decide

theorem witness_OnlyOwnRegistersWritten : (∃ t, exec .readLen State.reset = .next t) ∧ mayWrite .readLen .tempf = false ∧
    (∃ t, exec (.rain ⟨0, 0, 0, 0⟩ ⟨0, 0, 0, 0, 0, 0, 0, 0⟩ ⟨4, 1⟩) (busyOf 183) = .next t) ∧
    mayWrite (.rain ⟨0, 0, 0, 0⟩ ⟨0, 0, 0, 0, 0, 0, 0, 0⟩ ⟨4, 1⟩) .tempf = false :=
  ⟨⟨_, rfl⟩, rfl, ⟨_, rfl⟩, rfl⟩

theorem witness_OneRecordPerAttempt : packetSide .preamble = true ∧ (∃ t, exec .preamble (busyOf 38) = .next t) ∧
    (busyOf 38).verbose = false ∧ (∃ t, exec .preamble { busyOf 38 with verbose := true } = .next t) :=
  ⟨rfl, ⟨_, rfl⟩, rfl, ⟨_, rfl⟩⟩

theorem witness_DecodingIsIdempotent : packetSide .preamble = true ∧ ∃ t u, exec .preamble (busyOf 38) = .next t ∧
    exec .preamble { t with cursor := (busyOf 38).cursor } = .next u :=
  ⟨rfl, _, _, rfl, rfl⟩

/-- A run that fits, an empty run beyond any buffer, a legal LEN and one above any MAXLEN. -/
theorem witness_LoadEffect : State.reset.phase ≠ .busy ∧ (0#32).toNat + [true].length ≤ Config.maxLen ∧
    (1#32).toNat ≤ Config.maxLen ∧ Config.maxLen < (0x80000000#32).toNat := by
  have h1 := maxLen_pos
  have h2 := maxLen_lt
  refine ⟨by decide, ?_, ?_, ?_⟩ <;> simp <;> omega

/-- A run past the last cell of any buffer, and a cell that every buffer has. -/
theorem witness_LoadEffect_beyond : State.reset.phase ≠ .busy ∧ [true] ≠ [] ∧
    Config.maxLen < (0x7FFFFFFF#32).toNat + [true].length ∧ landingCell 0 0 = some 0 := by
  have h1 := maxLen_pos
  have h2 := maxLen_lt
  refine ⟨by decide, by decide, ?_, landingCell_of_lt 0 (by omega)⟩
  simp
  omega

/-- A LOAD at the top of the address space goes on: LEN is written (R18, R160). -/
theorem test_exec_load_beyond :
    ((after (exec (.load 0xFFFFFFFF#32 [true] (some 0#32)) { State.reset with len := 9, phase := .done })).map fun t =>
      (t.len, t.phase)) = some (0, .done) := by
  have h2 := maxLen_lt
  have hr : runExists 0xFFFFFFFF#32 [true] = false := by
    simp [runExists]
    omega
  simp [exec, execLoad, hr, after, lenAfterWrite]

theorem witness_not_busy : State.reset.phase ≠ .busy ∧ { State.reset with phase := .done }.phase ≠ .busy := by decide

theorem witness_StartEffect : State.reset.phase ≠ .busy := by decide

theorem witness_SetVerboseEffect : State.reset.phase ≠ .busy := by decide

theorem witness_BusyWritesHaveNoEffect : (busyOf 33).phase = .busy := rfl

theorem witness_BusyReadsReturnSomething : (busyOf 33).phase = .busy := rfl

theorem witness_ReadFReturnsRegister : State.reset.phase ≠ .busy := by decide

theorem witness_ReadFReservedReadsZero : 11 ≤ (11#4).toNat ∧ 11 ≤ (15#4).toNat := by decide

theorem witness_ReadValidReturnsMask : { State.reset with phase := .done }.phase ≠ .busy := by decide

theorem witness_StepKeepsInv : Inv State.reset ∧ step State.reset = .next State.reset := by
  refine ⟨⟨rfl, ?_, ?_, ?_, ?_, ?_⟩, rfl⟩ <;> simp

theorem witness_StepKeepsRanges : ReadingsInRange State.reset.readings ∧ step State.reset = .next State.reset := by
  refine ⟨?_, rfl⟩
  simp [ReadingsInRange, Readings.empty, InRange]

/-- A scan about to start on a stream of 33 bits and on one of 0 bits. -/
theorem witness_ScanRunsToDone :
    ((busyOf 33).phase = .busy ∧ (busyOf 33).cursor = 0#32 ∧ (busyOf 33).hostPort = [] ∧
      (busyOf 33).readings = Readings.empty ∧ 1 ≤ (busyOf 33).len.toNat - 32) ∧
    ((busyOf 0).phase = .busy ∧ (busyOf 0).cursor = 0#32 ∧ (busyOf 0).hostPort = [] ∧
      (busyOf 0).readings = Readings.empty) := by decide

/-- A host that reads STATUS and writes START. -/
theorem witness_VerboseDoesNotInterfere : ∃ s : State, SameButDiag s { s with verbose := true } ∧
    s.hostPort = [.access (.read 0x01), .access (.write 0x00 1)] ∧
    (∀ slot ∈ s.hostPort, slot ≠ .access (.read 0x00#8)) ∧ ∃ t, Host.Core.run core 2 s = .next t :=
  ⟨{ State.reset with hostPort := [.access (.read 0x01), .access (.write 0x00 1)] },
    ⟨rfl, rfl, rfl, rfl, rfl, rfl, rfl, rfl⟩, rfl, by decide, _, rfl⟩

/-- A tie on either side of zero, a negative numerator, and no tie. -/
theorem witness_RoundRule : 0 < 10 ∧ (0 : Int) ≤ 245 ∧ (-245 : Int) < 0 ∧ (2 * 245 : Int) = (2 * 24 + 1) * (10 : Nat) ∧
    (2 * (-245) : Int) = (2 * (-25) + 1) * (10 : Nat) ∧ ∀ q : Int, 2 * 244 ≠ (2 * q + 1) * (10 : Nat) := by
  refine ⟨by decide, by decide, by decide, by decide, by decide, ?_⟩
  intro q
  push_cast
  omega

/-- Both signs, and the ends of the domain of R107. -/
theorem witness_TemperaturePipeline : (0#4 : Nibble) = 0#4 ∧ (1#4 : Nibble) ≠ 0#4 ∧ (0xF#4 : Nibble) ≠ 0#4 ∧
    (-1665 : Int) ≤ -1665 ∧ c2f (-1665) = -26770 ∧ c2f 1665 = 33170 := by decide

theorem witness_RoundIsNearest : 0 < 127 := by decide

theorem witness_OnlyWindDirectionCanTie : 1665 ≤ 1665 ∧ 856 ≤ 856 ∧ 856 ≤ 1021 ∧ 1021 ≤ 1021 := by decide

theorem witness_DewPointWindow : (100 : Nat) = 100 ∧ (45 : Nat) ≠ 100 ∧ dewFloor 215 45 - 9 ≤ 4825 ∧
    4825 ≤ dewFloor 215 45 + 10 := by decide +kernel

/-- The corners of the domain of R113. -/
theorem witness_DewPointNearMagnusTetens : ∀ t10 ∈ [(-1665 : Int), 1665], ∀ h ∈ [(1 : Nat), 165],
    -1665 ≤ t10 ∧ t10 ≤ 1665 ∧ 1 ≤ h ∧ h ≤ 165 ∧ ∃ T g dewC : ℝ, T = (t10 : ℝ) / 10 ∧
      g = Real.log ((h : ℝ) / 100) + 17.67 * T / (243.5 + T) ∧ dewC = 243.5 * g / (17.67 - g) := by
  intro t10 ht h hh
  simp only [List.mem_cons, List.not_mem_nil, or_false] at ht hh
  refine ⟨by omega, by omega, by omega, by omega, _, _, _, rfl, rfl, rfl⟩

/-- 19 nibbles with sums 285, 256 and 255. -/
theorem witness_ChecksumFold : ∀ ns ∈ [List.replicate 19 0xF#4, List.replicate 17 0xF#4 ++ [1#4, 0#4],
    List.replicate 17 0xF#4 ++ [0#4, 0#4]], ns.length ≤ 19 ∧ 255 ≤ nibbleSum ns := by decide

theorem witness_SingleBitFlipDetected :
    3 < 4 ∧ (List.replicate 9 0xF#4).length + (List.replicate 9 0xF#4).length + 1 ≤ 19 := by decide

end Sys2Proof.Tests
end

section
/-! PROOFS. `round_q` gives a nearest integer under either tie rule (R7, R106). -/

namespace Sys2Proof.Machine

/-- Which way a quotient is rounded: down on at most half a remainder, up on at least half (R106). -/
theorem roundNat_down_or_up (ties : Config.RoundTies) (a b : Nat) :
    (roundNat ties a b = a / b ∧ 2 * (a % b) ≤ b) ∨ (roundNat ties a b = a / b + 1 ∧ b ≤ 2 * (a % b)) := by
  by_cases htie : 2 * (a % b) = b
  · exact (roundNat_cases ties a b).imp (⟨·, htie.le⟩) (⟨·, htie.ge⟩)
  · unfold roundNat
    split
    · next hlt => exact .inl ⟨rfl, hlt.le⟩
    · next hge =>
      have hgt : b < 2 * (a % b) := by omega
      exact .inr ⟨if_pos hgt, hgt.le⟩

/-- The remainder decides the distance: `a % b` when rounded down, `b - a % b` when rounded up. -/
theorem roundNat_nearest (ties : Config.RoundTies) (a : Nat) {b : Nat} (hb : 0 < b) :
    2 * |(a : Int) - b * roundNat ties a b| ≤ b := by
  have hdiv : (b : Int) * (a / b : Nat) + (a % b : Nat) = a := mod_cast Nat.div_add_mod a b
  have hmod : a % b < b := Nat.mod_lt a hb
  rcases roundNat_down_or_up ties a b with ⟨hround, hrem⟩ | ⟨hround, hrem⟩
  · have hdist : (a : Int) - b * roundNat ties a b = (a % b : Nat) := by
      rw [hround]
      linarith
    rw [hdist, abs_of_nonneg (by omega)]
    omega
  · have hdist : (a : Int) - b * roundNat ties a b = (a % b : Nat) - b := by
      rw [hround, Nat.cast_succ]
      linarith
    rw [hdist, abs_of_nonpos (by omega)]
    omega

@[simp] theorem roundQ_natCast (ties : Config.RoundTies) (a b : Nat) :
    roundQ ties a b = roundNat ties a b := by
  simp [roundQ]

/-- A negative numerator rounds as its mirror image (R106). -/
theorem roundQ_of_neg (ties : Config.RoundTies) {a : Int} (ha : a < 0) (b : Nat) :
    roundQ ties a b = -roundQ ties (-a) b := by
  simp [roundQ, ha.not_ge, ha.le]

theorem roundQ_nearest_of_nonneg (ties : Config.RoundTies) {a : Int} (ha : 0 ≤ a) {b : Nat} (hb : 0 < b) :
    2 * |a - b * roundQ ties a b| ≤ b := by
  lift a to Nat using ha
  rw [roundQ_natCast]
  exact roundNat_nearest ties a hb

/-- Settles O55: the remainder bounds the distance for `a >= 0`, and a negative `a` is the mirror image. -/
theorem roundIsNearest : Obligations.RoundIsNearest := by
  intro t a b hb
  rcases le_or_gt 0 a with ha | ha
  · exact roundQ_nearest_of_nonneg t ha hb
  · calc 2 * |a - b * roundQ t a b|
        = 2 * |-a - b * roundQ t (-a) b| := by
          rw [roundQ_of_neg t ha, ← abs_neg]
          ring_nf
      _ ≤ b := roundQ_nearest_of_nonneg t (neg_nonneg.mpr ha.le) hb

end Sys2Proof.Machine
end

section
/-! PROOFS. What an attempt reports: over every state with the same stream the same record and the same fragment, and
each value of a fragment in the range R12 gives its register. -/

namespace Sys2Proof.Machine

/-! ### The reading map after a merge (R11, R128) -/

/-- After a merge a register holds what it held, or the last value the fragment gives it, whatever it held. -/
theorem get_mergeFragment_cases (frag : Fragment) (f : Field) :
    (∀ r, Readings.get (mergeFragment r frag) f = Readings.get r f) ∨
    ∃ v, (f, v) ∈ frag ∧ ∀ r, Readings.get (mergeFragment r frag) f = some (BitVec.ofInt 32 v) := by
  induction frag with
  | nil => exact .inl fun _ => rfl
  | cons p rest ih =>
    obtain ⟨g, w⟩ := p
    rcases ih with hkept | ⟨v, hmem, hset⟩
    · by_cases hfg : f = g
      · subst hfg
        exact .inr ⟨w, List.mem_cons_self, fun r => by simp [hkept]⟩
      · exact .inl fun r => by simp [hkept, get_set_other r _ hfg]
    · exact .inr ⟨v, List.mem_cons_of_mem _ hmem, fun r => by simp [hset]⟩

theorem readings_ext {r q : Readings} (h : ∀ f, Readings.get r f = Readings.get q f) : r = q := by
  cases r
  cases q
  rw [Readings.mk.injEq]
  exact ⟨h .tempf, h .humidity, h .dewptf, h .temp2f, h .indoortempf, h .indoorhumidity, h .baromin,
    h .dailyrainin, h .windspeedmph, h .windgustmph, h .winddir⟩

/-- Merging a fragment twice is merging it once. -/
theorem mergeFragment_idem (r : Readings) (frag : Fragment) :
    mergeFragment (mergeFragment r frag) frag = mergeFragment r frag :=
  readings_ext fun f => by
    rcases get_mergeFragment_cases frag f with hkept | ⟨v, _, hset⟩
    · exact hkept _
    · rw [hset, hset]

/-! ### The ranges of R12, register by register -/

/-- What R12 says of one register; nothing of `dewptf`. -/
def FieldInRange : Field → Option Word → Prop
  | .tempf => InRange (-26770) 33170
  | .temp2f => InRange (-26770) 33170
  | .indoortempf => InRange (-26770) 33170
  | .humidity => InRange 0 165
  | .indoorhumidity => InRange 0 165
  | .baromin => InRange 2528 3015
  | .dailyrainin => InRange 0 65669
  | .windspeedmph => InRange 0 37245
  | .windgustmph => InRange 0 37245
  | .winddir => InRange 0 167
  | .dewptf => fun _ => True

theorem readingsInRange_iff (r : Readings) :
    ReadingsInRange r ↔ ∀ f, FieldInRange f (Readings.get r f) := by
  constructor
  · rintro ⟨htempf, htemp2f, hintemp, hhum, hinhum, hbaro, hrain, hspeed, hgust, hdir⟩ f
    cases f with
    | tempf => exact htempf
    | humidity => exact hhum
    | dewptf => trivial
    | temp2f => exact htemp2f
    | indoortempf => exact hintemp
    | indoorhumidity => exact hinhum
    | baromin => exact hbaro
    | dailyrainin => exact hrain
    | windspeedmph => exact hspeed
    | windgustmph => exact hgust
    | winddir => exact hdir
  · intro h
    exact ⟨h .tempf, h .temp2f, h .indoortempf, h .humidity, h .indoorhumidity, h .baromin, h .dailyrainin,
      h .windspeedmph, h .windgustmph, h .winddir⟩

theorem readingsInRange_empty : ReadingsInRange Readings.empty :=
  (readingsInRange_iff _).mpr fun f => by cases f <;> exact trivial

/-- Every value of a fragment is in the range of its register. -/
def FragmentInRange (frag : Fragment) : Prop :=
  ∀ p ∈ frag, FieldInRange p.1 (some (BitVec.ofInt 32 p.2))

theorem fragmentInRange_nil : FragmentInRange [] := by simp [FragmentInRange]

theorem mergeFragment_inRange {r : Readings} {frag : Fragment} (hr : ReadingsInRange r)
    (hfrag : FragmentInRange frag) : ReadingsInRange (mergeFragment r frag) := by
  rw [readingsInRange_iff] at hr ⊢
  intro f
  rcases get_mergeFragment_cases frag f with hkept | ⟨v, hmem, hset⟩
  · rw [hkept]
    exact hr f
  · rw [hset]
    exact hfrag _ hmem

/-- A value that 32 bits hold is read back from its register word. -/
theorem inRange_ofInt {lo hi v : Int} (hlo : lo ≤ v) (hhi : v ≤ hi) (hmin : -2147483648 ≤ lo)
    (hmax : hi ≤ 2147483647) : InRange lo hi (some (BitVec.ofInt 32 v)) := by
  have hv : (BitVec.ofInt 32 v).toInt = v := by
    rw [BitVec.toInt_ofInt]
    exact Int.bmod_eq_of_le (by norm_num; omega) (by norm_num; omega)
  simp only [InRange, hv]
  exact ⟨hlo, hhi⟩

/-- A rounded quotient lies in `[lo, hi]` when the quotient is within a half of it (R106). -/
theorem roundQ_mem (ties : Config.RoundTies) {a lo hi : Int} {b : Nat} (hb : 0 < b)
    (hlo : (2 * lo - 1) * b < 2 * a) (hhi : 2 * a < (2 * hi + 1) * b) :
    lo ≤ roundQ ties a b ∧ roundQ ties a b ≤ hi := by
  have hb' : (0 : Int) < b := by exact_mod_cast hb
  have hnear := abs_le.mp (show |2 * (a - b * roundQ ties a b)| ≤ b by
    rw [abs_mul]
    exact roundIsNearest ties a b hb)
  constructor
  · by_contra hlt
    nlinarith [hnear.2]
  · by_contra hgt
    nlinarith [hnear.1]

theorem c2f_tempTenths_inRange (t0 t1 t2 sg : Nibble) :
    InRange (-26770) 33170 (some (BitVec.ofInt 32 (c2f (tempTenths t0 t1 t2 sg)))) := by
  have ⟨hlo, hhi⟩ := tempTenths_bounds t0 t1 t2 sg
  exact inRange_ofInt (by unfold c2f; omega) (by unfold c2f; omega) (by norm_num) (by norm_num)

theorem bcd2_inRange (n0 n1 : Nibble) : InRange 0 165 (some (BitVec.ofInt 32 (bcd2 n0 n1 : Int))) := by
  have := bcd2_le n0 n1
  exact inRange_ofInt (by omega) (by omega) (by norm_num) (by norm_num)

theorem mbar2inhg_inRange (n0 n1 : Nibble) :
    InRange 2528 3015 (some (BitVec.ofInt 32 (mbar2inhg (bcd2 n0 n1 + 856)))) := by
  have hp := bcd2_le n0 n1
  have ⟨hlo, hhi⟩ : 2528 ≤ mbar2inhg (bcd2 n0 n1 + 856) ∧ mbar2inhg (bcd2 n0 n1 + 856) ≤ 3015 :=
    roundQ_mem tieRule (by norm_num) (by omega) (by omega)
  exact inRange_ofInt hlo hhi (by norm_num) (by norm_num)

theorem ms2mph_dec3_inRange (n0 n1 n2 : Nibble) :
    InRange 0 37245 (some (BitVec.ofInt 32 (ms2mph (dec3 n0 n1 n2)))) := by
  have hw := dec3_le n0 n1 n2
  have ⟨hlo, hhi⟩ : 0 ≤ ms2mph (dec3 n0 n1 n2) ∧ ms2mph (dec3 n0 n1 n2) ≤ 37245 :=
    roundQ_mem tieRule (by norm_num) (by omega) (by omega)
  exact inRange_ofInt hlo hhi (by norm_num) (by norm_num)

theorem rainInches_inRange (n0 n1 n2 n3 n4 : Nibble) :
    InRange 0 65669 (some (BitVec.ofInt 32 (rainInches n0 n1 n2 n3 n4))) := by
  have := n0.isLt; have := n1.isLt; have := n2.isLt; have := n3.isLt; have := n4.isLt
  have ⟨hlo, hhi⟩ : 0 ≤ rainInches n0 n1 n2 n3 n4 ∧ rainInches n0 n1 n2 n3 n4 ≤ 65669 := by
    rw [rainInches_eq]
    exact roundQ_mem tieRule (by norm_num) (by omega) (by omega)
  exact inRange_ofInt hlo hhi (by norm_num) (by norm_num)

theorem wdir_inRange (n0 n1 n2 : Nibble) : InRange 0 167 (some (BitVec.ofInt 32 (wdir n0 n1 n2))) := by
  have := n0.isLt; have := n1.isLt; have := n2.isLt
  have ⟨hlo, hhi⟩ : 0 ≤ wdir n0 n1 n2 ∧ wdir n0 n1 n2 ≤ 167 := by
    unfold wdir
    rw [wdirTenths_default]
    exact roundQ_mem tieRule (by norm_num) (by omega) (by omega)
  exact inRange_ofInt hlo hhi (by norm_num) (by norm_num)

theorem indoorFragment_inRange (d : IndoorData) : FragmentInRange (indoorFragment d) := by
  simp only [FragmentInRange, indoorFragment, List.forall_mem_cons]
  exact ⟨c2f_tempTenths_inRange .., bcd2_inRange .., mbar2inhg_inRange .., by simp⟩

theorem rainFragment_inRange (d : RainData) : FragmentInRange (rainFragment d) := by
  simp only [FragmentInRange, rainFragment, List.forall_mem_cons]
  exact ⟨rainInches_inRange .., by simp⟩

theorem windFragment_inRange (d : WindData) : FragmentInRange (windFragment d) := by
  simp only [FragmentInRange, windFragment, List.forall_mem_cons]
  exact ⟨wdir_inRange .., ms2mph_dec3_inRange .., ms2mph_dec3_inRange .., by simp⟩

theorem out2Fragment_inRange (d : Out2Data) : FragmentInRange (out2Fragment d) := by
  simp only [FragmentInRange, out2Fragment, List.forall_mem_cons]
  exact ⟨c2f_tempTenths_inRange .., by simp⟩

/-- With the dew point or without it: R12 says nothing of `dewptf`. -/
theorem out1Fragment_inRange (d : Out1Data) : FragmentInRange (out1Fragment d) := by
  simp only [FragmentInRange, out1Fragment, List.cons_append, List.nil_append, List.forall_mem_cons]
  refine ⟨c2f_tempTenths_inRange .., bcd2_inRange .., ?_⟩
  split
  · simp [FieldInRange]
  · simp

/-! ### Attempts over one stream (R33, R34) -/

/-- Two states with the same LEN, cursor and BITBUF: all that an attempt reads. -/
def SameStream (s t : State) : Prop := t.len = s.len ∧ t.cursor = s.cursor ∧ t.bitbuf = s.bitbuf

theorem SameStream.refl (s : State) : SameStream s s := ⟨rfl, rfl, rfl⟩

theorem SameStream.cursor_eq {s t : State} (h : SameStream s t) : t.cursor = s.cursor := h.2.1

theorem SameStream.logicalLength_eq {s t : State} (h : SameStream s t) : logicalLength t = logicalLength s := by
  obtain ⟨hlen, hcursor, _⟩ := h
  simp [logicalLength, hlen, hcursor]

theorem SameStream.rawStream_eq {s t : State} (h : SameStream s t) : rawStream t = rawStream s := by
  obtain ⟨hlen, hcursor, hbitbuf⟩ := h
  simp [rawStream, hlen, hcursor, hbitbuf]

theorem SameStream.logicalStream_eq {s t : State} (h : SameStream s t) : logicalStream t = logicalStream s := by
  simp [logicalStream, h.rawStream_eq]

/-- A record of the attempt at the cursor of `s` (R91). -/
def RecordOf (s : State) (r : DiagRecord) : Prop :=
  r.offset = s.cursor ∧ r.L = BitVec.ofNat 32 (logicalLength s) ∧ r.outcome ≠ .noPreamble

/-- The attempt ends with one record of `s` and one fragment that meets `P`, the same over every state with the
stream of `s`. -/
def Reports (s : State) (P : Fragment → Prop) (attempt : State → State) : Prop :=
  ∃ r frag, RecordOf s r ∧ P frag ∧ ∀ t, SameStream s t → attempt t = decodedOutcome t r frag

/-- An outcome that writes no result register ends as one that commits nothing. -/
theorem raiseOutcome_eq_decodedOutcome (s : State) (r : DiagRecord) : raiseOutcome s r = decodedOutcome s r [] := rfl

section
variable {s : State} {P Q : Fragment → Prop} {f g : State → State}

theorem Reports.mono (h : Reports s P f) (hPQ : ∀ frag, P frag → Q frag) : Reports s Q f := by
  obtain ⟨r, frag, hr, hP, hf⟩ := h
  exact ⟨r, frag, hr, hPQ frag hP, hf⟩

theorem Reports.congr (h : Reports s P g) (hfg : ∀ t, SameStream s t → f t = g t) : Reports s P f := by
  obtain ⟨r, frag, hr, hP, hg⟩ := h
  exact ⟨r, frag, hr, hP, fun t ht => (hfg t ht).trans (hg t ht)⟩

theorem Reports.ite {c : State → Prop} [∀ t, Decidable (c t)] (hc : ∀ t, SameStream s t → (c t ↔ c s))
    (hf : Reports s P f) (hg : Reports s P g) : Reports s P fun t => if c t then f t else g t := by
  by_cases h : c s
  · exact hf.congr fun t ht => if_pos ((hc t ht).mpr h)
  · exact hg.congr fun t ht => if_neg fun h' => h ((hc t ht).mp h')

theorem reports_decoded {mk : State → DiagRecord} {frag : Fragment} (hmk : ∀ t, SameStream s t → mk t = mk s)
    (hr : RecordOf s (mk s)) (hP : P frag) : Reports s P fun t => decodedOutcome t (mk t) frag :=
  ⟨mk s, frag, hr, hP, fun t ht => by simp only [hmk t ht]⟩

theorem reports_raise {mk : State → DiagRecord} (hmk : ∀ t, SameStream s t → mk t = mk s)
    (hr : RecordOf s (mk s)) (hnil : P []) : Reports s P fun t => raiseOutcome t (mk t) := by
  simp only [raiseOutcome_eq_decodedOutcome]
  exact reports_decoded hmk hr hnil

theorem reports_truncated (stage : Stage) (hnil : P []) :
    Reports s P fun t => raiseOutcome t (truncatedRecord t stage) :=
  reports_raise (fun t ht => by simp [truncatedRecord, ht.logicalLength_eq, ht.cursor_eq])
    (by simp [RecordOf, truncatedRecord]) hnil

theorem packetAttempt_reports (t : SensorType) (ns : List Nibble) (ocs : Check) (h : Header) (frag : Fragment)
    (info : DiagInfo) (hnil : P []) (hfrag : P frag) :
    Reports s P fun u => packetAttempt u t ns ocs h frag info := by
  unfold packetAttempt
  refine .ite (fun u hu => by rw [hu.logicalLength_eq]) ?_ (.ite (fun _ _ => Iff.rfl) ?_ ?_)
  · exact reports_raise (fun u hu => by simp [truncatedBodyRecord, hu.logicalLength_eq, hu.cursor_eq])
      (by simp [RecordOf, truncatedBodyRecord]) hnil
  · exact reports_decoded (fun u hu => by simp [decodedRecord, hu.logicalLength_eq, hu.cursor_eq])
      (by simp [RecordOf, decodedRecord]) hfrag
  · exact reports_raise (fun u hu => by simp [mismatchRecord, hu.logicalLength_eq, hu.cursor_eq])
      (by simp [RecordOf, mismatchRecord]) hnil

theorem unknownAttempt_reports (id : BitVec 16) (l : List Bool) (hnil : P []) :
    Reports s P fun u => unknownAttempt u id l := by
  unfold unknownAttempt
  refine .ite (fun u hu => by rw [hu.logicalLength_eq]) ?_ (.ite (fun u hu => by rw [hu.logicalLength_eq]) ?_ ?_)
  · exact reports_raise (fun u hu => by simp [truncatedBodyRecord, hu.logicalLength_eq, hu.cursor_eq])
      (by simp [RecordOf, truncatedBodyRecord]) hnil
  · exact reports_raise (fun u hu => by simp [unknownRecord, hu.logicalLength_eq, hu.cursor_eq])
      (by simp [RecordOf, unknownRecord]) hnil
  · exact reports_raise (fun u hu => by simp [mismatchRecord, hu.logicalLength_eq, hu.cursor_eq])
      (by simp [RecordOf, mismatchRecord]) hnil

end

theorem dispatchStage_reports (s : State) (l : List Bool) :
    Reports s FragmentInRange fun t => dispatchStage t l := by
  unfold dispatchStage
  cases dispatch (sensorId l) with
  | none => exact unknownAttempt_reports _ _ fragmentInRange_nil
  | some type =>
    cases type with
    | indoor => exact packetAttempt_reports _ _ _ _ _ _ fragmentInRange_nil (indoorFragment_inRange _)
    | rain => exact packetAttempt_reports _ _ _ _ _ _ fragmentInRange_nil (rainFragment_inRange _)
    | wind => exact packetAttempt_reports _ _ _ _ _ _ fragmentInRange_nil (windFragment_inRange _)
    | out2 => exact packetAttempt_reports _ _ _ _ _ _ fragmentInRange_nil (out2Fragment_inRange _)
    | out1 => exact packetAttempt_reports _ _ _ _ _ _ fragmentInRange_nil (out1Fragment_inRange _)

theorem idStage_reports (s : State) (l : List Bool) : Reports s FragmentInRange fun t => idStage t l :=
  .ite (fun t ht => by rw [ht.logicalLength_eq]) (reports_truncated .id fragmentInRange_nil)
    (dispatchStage_reports s l)

theorem syncStage_reports (s : State) (l : List Bool) : Reports s FragmentInRange fun t => syncStage t l :=
  .ite (fun t ht => by rw [ht.logicalLength_eq]) (reports_truncated .sync fragmentInRange_nil)
    (.ite (fun _ _ => Iff.rfl) (idStage_reports s l)
      (reports_raise (fun t ht => by simp [badSyncRecord, ht.logicalLength_eq, ht.cursor_eq])
        (by simp [RecordOf, badSyncRecord]) fragmentInRange_nil))

/-! ### The rows a scan step runs -/

/-- What a row may commit: values in range, to registers of its own (R10, R12). -/
def Committable (i : Instr) (frag : Fragment) : Prop :=
  FragmentInRange frag ∧ ∀ p ∈ frag, mayWrite i p.1 = true

theorem committable_nil (i : Instr) : Committable i [] := ⟨fragmentInRange_nil, by simp⟩

theorem packetAttempt_committable {i : Instr} (s : State) (t : SensorType) (ns : List Nibble) (ocs : Check)
    (h : Header) {frag : Fragment} (info : DiagInfo) (hrange : FragmentInRange frag)
    (hown : ∀ p ∈ frag, mayWrite i p.1 = true) :
    Reports s (Committable i) fun u => packetAttempt u t ns ocs h frag info :=
  packetAttempt_reports t ns ocs h frag info (committable_nil i) ⟨hrange, hown⟩

/-- A packet-side row answers one record and one fragment of its own, the same over every state with the stream
of `s`. -/
theorem exec_packetSide_reports (i : Instr) (s : State) (hi : packetSide i = true) :
    ∃ r frag, RecordOf s r ∧ Committable i frag ∧
      ∀ t, SameStream s t → exec i t = .next (decodedOutcome t r frag) := by
  suffices h : ∃ attempt, Reports s (Committable i) attempt ∧ ∀ t, exec i t = .next (attempt t) by
    obtain ⟨attempt, ⟨r, frag, hr, hc, hend⟩, hexec⟩ := h
    exact ⟨r, frag, hr, hc, fun t ht => by rw [hexec, hend t ht]⟩
  cases i with
  | preamble =>
    exact ⟨_, ((syncStage_reports s (logicalStream s)).congr fun t ht => by rw [ht.logicalStream_eq]).mono
      fun _ hrange => ⟨hrange, fun _ _ => rfl⟩, fun _ => rfl⟩
  | sync =>
    exact ⟨_, ((idStage_reports s (logicalStream s)).congr fun t ht => by rw [ht.logicalStream_eq]).mono
      fun _ hrange => ⟨hrange, fun _ _ => rfl⟩, fun _ => rfl⟩
  | indoor h d c =>
    exact ⟨_, packetAttempt_committable s _ _ _ _ _ (indoorFragment_inRange d)
      (by simp [indoorFragment, mayWrite]), fun _ => rfl⟩
  | rain h d c =>
    exact ⟨_, packetAttempt_committable s _ _ _ _ _ (rainFragment_inRange d)
      (by simp [rainFragment, mayWrite]), fun _ => rfl⟩
  | wind h d c =>
    exact ⟨_, packetAttempt_committable s _ _ _ _ _ (windFragment_inRange d)
      (by simp [windFragment, mayWrite]), fun _ => rfl⟩
  | out2 h d c =>
    exact ⟨_, packetAttempt_committable s _ _ _ _ _ (out2Fragment_inRange d)
      (by simp [out2Fragment, mayWrite]), fun _ => rfl⟩
  | out1 h d c =>
    exact ⟨_, packetAttempt_committable s _ _ _ _ _ (out1Fragment_inRange d)
      (by unfold out1Fragment; split <;> simp [mayWrite]), fun _ => rfl⟩
  | unk id tail => exact ⟨_, unknownAttempt_reports id _ (committable_nil _), fun _ => rfl⟩
  | load _ _ _ => cases hi
  | start _ => cases hi
  | setVerbose _ => cases hi
  | srst => cases hi
  | readF _ => cases hi
  | readValid => cases hi
  | readStatus => cases hi
  | readCursor => cases hi
  | readLen => cases hi
  | readCtrl => cases hi

/-- Settles O33: the record of the row is presented, and the port keeps the earlier ones. -/
theorem oneRecordPerAttempt : Obligations.OneRecordPerAttempt := by
  intro i s t hi hexec
  obtain ⟨r, frag, hr, _, hend⟩ := exec_packetSide_reports i s hi
  rw [hend s (.refl s)] at hexec
  cases hexec
  exact ⟨fun hv => by simp [hv], fun hv => ⟨r, by simp [hv], hr⟩⟩

/-- Settles O34: both runs see the same stream, so they merge the same fragment. -/
theorem decodingIsIdempotent : Obligations.DecodingIsIdempotent := by
  intro i s t u hi hfirst hsecond
  obtain ⟨r, frag, _, _, hend⟩ := exec_packetSide_reports i s hi
  rw [hend s (.refl s)] at hfirst
  cases hfirst
  have hsame : SameStream s { decodedOutcome s r frag with cursor := s.cursor } := ⟨by simp, rfl, by simp⟩
  rw [hend _ hsame] at hsecond
  cases hsecond
  simp [mergeFragment_idem]

end Sys2Proof.Machine
end

section
/-! PROOFS. What the host operations and a step can do; the invariants every step keeps; the registers an instruction
may change; VERBOSE changes nothing but the DIAG port. -/

namespace Sys2Proof.Machine

/-! ### The rows of the host, in and outside BUSY (R140 to R146) -/

section
variable {s : State}

theorem exec_load_busy (hb : s.phase = .busy) (base : Word) (bits : List Bool) (len : Option Word) :
    exec (.load base bits len) s = .next s := by
  simp [exec, execLoad, hb]

theorem exec_load_run (hb : s.phase ≠ .busy) {base : Word} {bits : List Bool} (hrun : runExists base bits = true)
    (len : Option Word) : exec (.load base bits len) s = .next (loadBits s base bits len) := by
  simp [exec, execLoad, hb, hrun]

theorem exec_load_beyond (hb : s.phase ≠ .busy) {base : Word} {bits : List Bool}
    (hrun : runExists base bits = false) (len : Option Word) :
    exec (.load base bits len) s = .next (loadBeyond s base bits len) := by
  simp [exec, execLoad, hb, hrun]

theorem exec_start_busy (hb : s.phase = .busy) (v : Bool) : exec (.start v) s = .next s := by
  simp [exec, execStart, hb]

theorem exec_start_not_busy (hb : s.phase ≠ .busy) (v : Bool) :
    exec (.start v) s = .next (startScan (writeVerbose s v)) := by
  simp [exec, execStart, hb]

theorem exec_setVerbose_busy (hb : s.phase = .busy) (v : Bool) : exec (.setVerbose v) s = .next s := by
  simp [exec, execSetVerbose, hb]

theorem exec_setVerbose_not_busy (hb : s.phase ≠ .busy) (v : Bool) :
    exec (.setVerbose v) s = .next (writeVerbose s v) := by
  simp [exec, execSetVerbose, hb]

theorem exec_readF_reserved {n : BitVec 4} (hn : fieldOfNumber n = none) (s : State) :
    exec (.readF n) s = .next (answer s (some 0#32)) := by
  simp [exec, execReadF, hn]

theorem exec_readF_busy {n : BitVec 4} {f : Field} (hn : fieldOfNumber n = some f) (hb : s.phase = .busy) :
    exec (.readF n) s = .next (answerUnspecified s) := by
  simp [exec, execReadF, hn, hb]

theorem exec_readF_not_busy {n : BitVec 4} {f : Field} (hn : fieldOfNumber n = some f) (hb : s.phase ≠ .busy) :
    exec (.readF n) s = .next (answer s (Readings.get s.readings f)) := by
  simp [exec, execReadF, hn, hb]

theorem exec_readValid_busy (hb : s.phase = .busy) : exec .readValid s = .next (answerUnspecified s) := by
  simp [exec, execReadValid, hb]

theorem exec_readValid_not_busy (hb : s.phase ≠ .busy) :
    exec .readValid s = .next (answer s (some (validWord s.readings))) := by
  simp [exec, execReadValid, hb]

end

/-- Settles O40: each of the three tests BUSY first. -/
theorem busyWritesHaveNoEffect : Obligations.BusyWritesHaveNoEffect := fun _ hb =>
  ⟨exec_load_busy hb, exec_start_busy hb, exec_setVerbose_busy hb⟩

/-! ### Two states that differ in VERBOSE and DIAG only -/

theorem SameButDiag.refl (s : State) : SameButDiag s s := ⟨rfl, rfl, rfl, rfl, rfl, rfl, rfl, rfl⟩

theorem SameButDiag.phase_eq {s t : State} (h : SameButDiag s t) : t.phase = s.phase := h.1.symm

theorem SameButDiag.readings_eq {s t : State} (h : SameButDiag s t) : t.readings = s.readings := by
  obtain ⟨_, _, _, hreadings, _⟩ := h
  exact hreadings.symm

theorem SameButDiag.hostPort_eq {s t : State} (h : SameButDiag s t) : t.hostPort = s.hostPort := by
  obtain ⟨_, _, _, _, _, hhost, _⟩ := h
  exact hhost.symm

theorem SameButDiag.sameStream {s t : State} (h : SameButDiag s t) : SameStream s t := by
  obtain ⟨_, hlen, hcursor, _, hbitbuf, _⟩ := h
  exact ⟨hlen.symm, hcursor.symm, hbitbuf.symm⟩

/-- An update that touches neither field depends on neither. -/
theorem SameButDiag.decodedOutcome {s t : State} (h : SameButDiag s t) (r : DiagRecord) (frag : Fragment) :
    SameButDiag (decodedOutcome s r frag) (decodedOutcome t r frag) := by
  obtain ⟨hphase, hlen, hcursor, hreadings, hbitbuf, hhost, hread, hfree⟩ := h
  simp [SameButDiag, *]

/-! ### What a host row can do -/

/-- The updates by which a host row may act on the state `s`. -/
inductive HostAction (s : State) : Instr → (State → State) → Prop where
  | nothing (i : Instr) : HostAction s i id
  | loadsRun (base : Word) (bits : List Bool) (len : Option Word) (hb : s.phase ≠ .busy)
      (hrun : runExists base bits = true) : HostAction s (.load base bits len) (loadBits · base bits len)
  | loadsBeyond (base : Word) (bits : List Bool) (len : Option Word) (hb : s.phase ≠ .busy) :
      HostAction s (.load base bits len) (loadBeyond · base bits len)
  | starts (v : Bool) : HostAction s (.start v) fun t => startScan (writeVerbose t v)
  | setsVerbose (v : Bool) : HostAction s (.setVerbose v) (writeVerbose · v)
  | resets : HostAction s .srst softReset
  | answers (i : Instr) (v : Option Word) : HostAction s i (answer · v)
  | answersUnspecified (i : Instr) : HostAction s i answerUnspecified

/-- A host row does the same in every state that differs in VERBOSE and DIAG only; of READ_CTRL this asks for the
same VERBOSE. -/
theorem exec_hostSide {i : Instr} (s : State) (hi : packetSide i = false) :
    ∃ act, HostAction s i act ∧
      ∀ t, SameButDiag s t → (i = .readCtrl → t.verbose = s.verbose) → exec i t = .next (act t) := by
  cases i with
  | load base bits len =>
    by_cases hb : s.phase = .busy
    · exact ⟨_, .nothing _, fun t ht _ => exec_load_busy (ht.phase_eq.trans hb) base bits len⟩
    · have hb' {t : State} (ht : SameButDiag s t) : t.phase ≠ .busy := ht.phase_eq.symm ▸ hb
      cases hrun : runExists base bits with
      | true => exact ⟨_, .loadsRun base bits len hb hrun, fun t ht _ => exec_load_run (hb' ht) hrun len⟩
      | false => exact ⟨_, .loadsBeyond base bits len hb, fun t ht _ => exec_load_beyond (hb' ht) hrun len⟩
  | start v =>
    by_cases hb : s.phase = .busy
    · exact ⟨_, .nothing _, fun t ht _ => exec_start_busy (ht.phase_eq.trans hb) v⟩
    · exact ⟨_, .starts v, fun t ht _ => exec_start_not_busy (ht.phase_eq.symm ▸ hb) v⟩
  | setVerbose v =>
    by_cases hb : s.phase = .busy
    · exact ⟨_, .nothing _, fun t ht _ => exec_setVerbose_busy (ht.phase_eq.trans hb) v⟩
    · exact ⟨_, .setsVerbose v, fun t ht _ => exec_setVerbose_not_busy (ht.phase_eq.symm ▸ hb) v⟩
  | srst => exact ⟨_, .resets, fun _ _ _ => rfl⟩
  | readF n =>
    cases hn : fieldOfNumber n with
    | none => exact ⟨_, .answers _ _, fun t _ _ => exec_readF_reserved hn t⟩
    | some f =>
      by_cases hb : s.phase = .busy
      · exact ⟨_, .answersUnspecified _, fun t ht _ => exec_readF_busy hn (ht.phase_eq.trans hb)⟩
      · exact ⟨_, .answers _ (Readings.get s.readings f), fun t ht _ => by
          rw [exec_readF_not_busy hn (ht.phase_eq.symm ▸ hb), ht.readings_eq]⟩
  | readValid =>
    by_cases hb : s.phase = .busy
    · exact ⟨_, .answersUnspecified _, fun t ht _ => exec_readValid_busy (ht.phase_eq.trans hb)⟩
    · exact ⟨_, .answers _ (some (validWord s.readings)), fun t ht _ => by
        rw [exec_readValid_not_busy (ht.phase_eq.symm ▸ hb), ht.readings_eq]⟩
  | readStatus =>
    exact ⟨_, .answers _ (some (statusWord s.phase)), fun t ht _ => by rw [← ht.phase_eq]; rfl⟩
  | readCursor =>
    exact ⟨_, .answers _ (some s.cursor), fun t ht _ => by rw [← ht.sameStream.cursor_eq]; rfl⟩
  | readLen => exact ⟨_, .answers _ (some s.len), fun t ht _ => by rw [← ht.sameStream.1]; rfl⟩
  | readCtrl =>
    exact ⟨_, .answers _ (some (ctrlWord s.verbose)), fun t _ hctrl => by rw [← hctrl rfl]; rfl⟩
  | _ => cases hi

/-- The same for the state itself. -/
theorem exec_hostSide_self {i : Instr} (s : State) (hi : packetSide i = false) :
    ∃ act, HostAction s i act ∧ exec i s = .next (act s) := by
  obtain ⟨act, hact, hexec⟩ := exec_hostSide s hi
  exact ⟨act, hact, hexec s (.refl s) fun _ => rfl⟩

/-- Settles O32: a packet row merges a fragment of its own registers; of the host rows only START and SRST touch
the map. -/
theorem onlyOwnRegistersWritten : Obligations.OnlyOwnRegistersWritten := by
  intro i s t f hexec hnot
  cases hside : packetSide i with
  | true =>
    obtain ⟨r, frag, _, ⟨_, hown⟩, hend⟩ := exec_packetSide_reports i s hside
    rw [hend s (.refl s)] at hexec
    cases hexec
    rw [decodedOutcome_readings]
    refine mergeFragment_other frag f (fun p hp heq => ?_) s.readings
    have hmay := hown p hp
    rw [heq, hnot] at hmay
    cases hmay
  | false =>
    obtain ⟨act, hact, heq⟩ := exec_hostSide_self s hside
    rw [heq] at hexec
    cases hexec
    cases hact with
    | nothing => rfl
    | loadsRun => rfl
    | loadsBeyond => rfl
    | starts => cases hnot
    | setsVerbose => rfl
    | resets => cases hnot
    | answers => rfl
    | answersUnspecified => rfl

/-! ### What a step can do -/

/-- A host access that decodes is a host row. -/
theorem decodeAccess_hostSide {a : HostAccess} {i : Instr} (h : decode (.access a) = .ok i) :
    packetSide i = false := by
  cases a with
  | read reg =>
    simp only [decode, decodeAccess, decodeRead] at h
    split_ifs at h <;> cases h <;> rfl
  | write reg data =>
    simp only [decode, decodeAccess, decodeWrite, decodeCtrlWrite] at h
    split_ifs at h <;> cases h <;> rfl
  | bitbuf base bits len =>
    cases h
    rfl

/-- READ_CTRL stands for one access only. -/
theorem decodeAccess_readCtrl {a : HostAccess} (h : decode (.access a) = .ok .readCtrl) : a = .read 0x00#8 := by
  cases a with
  | read reg =>
    simp only [decode, decodeAccess, decodeRead] at h
    split_ifs at h with h0
    · rw [h0]
    all_goals cases h
  | write reg data =>
    simp only [decode, decodeAccess, decodeWrite, decodeCtrlWrite] at h
    split_ifs at h
    all_goals cases h
  | bitbuf base bits len => cases h

theorem hostStep_of_ok {a : HostAccess} {i : Instr} (h : decode (.access a) = .ok i) (s : State) :
    hostStep a s = exec i s := by
  simp [hostStep, h]

theorem hostStep_of_error {a : HostAccess} {e : DecodeError} (h : decode (.access a) = .error e) (s : State) :
    hostStep a s = .next (unmappedAccess s e) := by
  simp [hostStep, h]

theorem blockStep_of_busy {s : State} (hb : s.phase = .busy) : blockStep s = scanStep s := if_pos hb

theorem blockStep_of_not_busy {s : State} (hb : s.phase ≠ .busy) : blockStep s = .next s := if_neg hb

/-- A scan step ends with the exit, a skip, or a commit of values in range, the empty one included. -/
theorem scanStep_next {s t : State} (h : scanStep s = .next t) :
    t = finishScan s ∨ (scanGoesOn s = true ∧ t = noPreambleOutcome s) ∨
    (scanGoesOn s = true ∧ ∃ r frag, FragmentInRange frag ∧ t = decodedOutcome s r frag) := by
  rcases scanStep_cases s with ⟨_, hscan⟩ | ⟨hgo, hscan⟩ | ⟨hgo, i, u, hdecode, hscan, hexec, _⟩ <;>
    rw [hscan] at h <;> cases h
  · exact .inl rfl
  · exact .inr (.inl ⟨hgo, rfl⟩)
  · obtain ⟨r, frag, _, ⟨hrange, _⟩, hend⟩ := exec_packetSide_reports i s (decodeStream_packetSide hdecode)
    rw [hend s (.refl s)] at hexec
    cases hexec
    exact .inr (.inr ⟨hgo, r, frag, hrange, rfl⟩)

/-- A property that each part of a step keeps, the step keeps. -/
theorem step_preserves {P : State → Prop}
    (take : ∀ s, P s → P (takeSlot s))
    (unmapped : ∀ s e, P s → P (unmappedAccess s e))
    (host : ∀ s i act, P s → HostAction s i act → P (act s))
    (finish : ∀ s, P s → P (finishScan s))
    (skip : ∀ s, P s → s.phase = .busy → scanGoesOn s = true → P (noPreambleOutcome s))
    (attempt : ∀ s r frag, P s → s.phase = .busy → scanGoesOn s = true → FragmentInRange frag →
      P (decodedOutcome s r frag))
    {s t : State} (hs : P s) (hstep : step s = .next t) : P t := by
  have block : ∀ s t, P s → blockStep s = .next t → P t := by
    intro s t hs hblock
    by_cases hb : s.phase = .busy
    · rw [blockStep_of_busy hb] at hblock
      rcases scanStep_next hblock with rfl | ⟨hgo, rfl⟩ | ⟨hgo, r, frag, hrange, rfl⟩
      · exact finish s hs
      · exact skip s hs hb hgo
      · exact attempt s r frag hs hb hgo hrange
    · rw [blockStep_of_not_busy hb] at hblock
      cases hblock
      exact hs
  rcases step_cases s with ⟨_, heq⟩ | ⟨_, _, heq⟩ | ⟨a, _, _, heq⟩ <;> rw [heq] at hstep
  · exact block s t hs hstep
  · exact block _ t (take s hs) hstep
  · cases hdecode : decode (.access a) with
    | ok i =>
      obtain ⟨act, hact, hexec⟩ := exec_hostSide_self (takeSlot s) (decodeAccess_hostSide hdecode)
      rw [hostStep_of_ok hdecode, hexec] at hstep
      cases hstep
      exact host _ i act (take s hs) hact
    | error e =>
      rw [hostStep_of_error hdecode] at hstep
      cases hstep
      exact unmapped _ e (take s hs)

/-! ### The value ranges (R12) -/

/-- Settles O51: a step leaves the map, empties it, or merges a fragment in range. -/
theorem stepKeepsRanges : Obligations.StepKeepsRanges := by
  intro s t
  apply step_preserves (P := fun s => ReadingsInRange s.readings)
  case take => exact fun s hs => hs
  case unmapped =>
    intro s e hs
    cases e <;> exact hs
  case host =>
    intro s i act hs hact
    cases hact with
    | starts => exact readingsInRange_empty
    | resets => exact readingsInRange_empty
    | _ => exact hs
  case finish => exact fun s hs => hs
  case skip => exact fun s hs _ _ => hs
  case attempt =>
    intro s r frag hs _ _ hrange
    rw [decodedOutcome_readings]
    exact mergeFragment_inRange hs hrange

/-! ### The invariant of the block (R14, R16, R18, R19) -/

theorem lenAfterWrite_le {old : Word} (hold : old.toNat ≤ Config.maxLen) (len : Option Word) :
    (lenAfterWrite old len).toNat ≤ Config.maxLen := by
  unfold lenAfterWrite
  split
  · exact hold
  · split
    · assumption
    · exact hold

theorem runExists_iff (base : Word) (bits : List Bool) :
    runExists base bits = true ↔ bits = [] ∨ base.toNat + bits.length ≤ Config.maxLen := by
  simp [runExists]

/-- A run of existing cells lists existing cells only. -/
theorem writeRun_cells {m : Memory} {base : Word} {bits : List Bool} (hrun : runExists base bits = true)
    (hm : ∀ c ∈ m, c.1 < Config.maxLen) : ∀ c ∈ Memory.writeRun m base.toNat bits, c.1 < Config.maxLen := by
  rcases (runExists_iff base bits).mp hrun with rfl | hfits
  · exact hm
  · exact writeRun_bounded Config.maxLen bits m base.toNat hm hfits

/-- A scan step below the loop bound ends within it, at the next cursor. -/
theorem inv_of_advance {s t : State} (h : Inv s) (hb : s.phase = .busy) (hgo : scanGoesOn s = true)
    (hphase : t.phase = s.phase) (hlen : t.len = s.len) (hcursor : t.cursor = s.cursor + 1#32)
    (hbitbuf : t.bitbuf = s.bitbuf) : Inv t := by
  obtain ⟨hwf, hcells, hlegal, _, _, _⟩ := h
  have hbound : s.cursor.toNat + 32 < s.len.toNat := of_decide_eq_true hgo
  have hnext : (s.cursor + 1#32).toNat = s.cursor.toNat + 1 := by
    have := s.len.isLt
    rw [BitVec.toNat_add]
    exact Nat.mod_eq_of_lt (by simp; omega)
  rw [Inv, hphase, hlen, hcursor, hbitbuf, hnext, hb]
  exact ⟨hwf, hcells, hlegal, by omega, fun _ => by omega, fun hidle => by cases hidle⟩

theorem inv_hostAction {s : State} {i : Instr} {act : State → State} (h : Inv s) (hact : HostAction s i act) :
    Inv (act s) := by
  have ⟨hwf, hcells, hlegal, hcursor, _, hidle⟩ := h
  cases hact with
  | nothing => exact h
  | loadsRun base bits len hb hrun =>
    exact ⟨wf_writeRun bits _ _ hwf, writeRun_cells hrun hcells, lenAfterWrite_le hlegal len, hcursor,
      fun hbusy => absurd hbusy hb, hidle⟩
  | loadsBeyond base bits len hb =>
    exact ⟨wf_writeStray _ bits _ _ hwf, writeStray_bounded _ bits _ _ hcells, lenAfterWrite_le hlegal len,
      hcursor, fun hbusy => absurd hbusy hb, hidle⟩
  | starts v => exact ⟨hwf, hcells, hlegal, by simp, by simp, fun hstart => by cases hstart⟩
  | setsVerbose v => exact h
  | resets => exact ⟨hwf, hcells, by simp, by simp, by simp, fun _ => ⟨rfl, rfl⟩⟩
  | answers v => exact h
  | answersUnspecified => exact h

theorem inv_finishScan {s : State} (h : Inv s) : Inv (finishScan s) := by
  obtain ⟨hwf, hcells, hlegal, hcursor, _, _⟩ := h
  exact ⟨hwf, hcells, hlegal, hcursor, by simp, by simp⟩

/-- Settles O49: a LOAD writes existing cells and a legal LEN outside BUSY, START and SRST put the cursor at 0, and a
scan step advances below its loop bound only. -/
theorem stepKeepsInv : Obligations.StepKeepsInv := by
  intro s t
  apply step_preserves (P := Inv)
  case take => exact fun s hs => hs
  case unmapped =>
    intro s e hs
    cases e <;> exact hs
  case host => exact fun s i act hs hact => inv_hostAction hs hact
  case finish => exact fun s hs => inv_finishScan hs
  case skip => exact fun s hs hb hgo => inv_of_advance hs hb hgo rfl rfl rfl rfl
  case attempt =>
    exact fun s r frag hs hb hgo _ => inv_of_advance hs hb hgo (by simp) (by simp) (by simp) (by simp)

/-- Settles O47: every field of the reset state, and a quiescent block under a silent host. -/
theorem resetState : Obligations.ResetState :=
  ⟨rfl, rfl, rfl, rfl, get_empty, rfl, rfl⟩

/-- Settles O48: after reset BITBUF lists no cell, LEN and cursor are 0 and the map is empty. -/
theorem invariantsAtReset : Obligations.InvariantsAtReset :=
  ⟨⟨wf_reset, by simp, by simp, by simp, by simp, fun _ => ⟨rfl, rfl⟩⟩, readingsInRange_empty⟩

/-! ### VERBOSE and the DIAG port (R17, R22) -/

theorem SameButDiag.hostAction {s t : State} {i : Instr} {act : State → State} (h : SameButDiag s t)
    (hact : HostAction s i act) : SameButDiag (act s) (act t) := by
  obtain ⟨hphase, hlen, hcursor, hreadings, hbitbuf, hhost, hread, hfree⟩ := h
  cases hact <;> simp [SameButDiag, *]

theorem hostAction_hostPort {s : State} {i : Instr} {act : State → State} (hact : HostAction s i act) :
    (act s).hostPort = s.hostPort := by
  cases hact <;> rfl

/-- Both outcomes are next states that differ in VERBOSE and DIAG only, with the slots `port` to come. -/
def GoOnAlike (port : List HostSlot) (o q : Host.Outcome State Fault Refusal) : Prop :=
  ∃ s t, o = .next s ∧ q = .next t ∧ SameButDiag s t ∧ s.hostPort = port

theorem SameButDiag.takeSlot {s t : State} (h : SameButDiag s t) : SameButDiag (takeSlot s) (takeSlot t) := by
  obtain ⟨hphase, hlen, hcursor, hreadings, hbitbuf, hhost, hread, hfree⟩ := h
  simp [SameButDiag, *]

theorem scanStep_alike {s t : State} (h : SameButDiag s t) :
    GoOnAlike s.hostPort (scanStep s) (scanStep t) := by
  have ⟨hphase, hlen, hcursor, hreadings, hbitbuf, hhost, hread, hfree⟩ := h
  have hgo : scanGoesOn t = scanGoesOn s := by simp [scanGoesOn, hlen, hcursor]
  unfold scanStep
  rw [hgo, h.sameStream.rawStream_eq]
  split
  · cases hdecode : decode (.stream (rawStream s)) with
    | ok i =>
      obtain ⟨r, frag, _, _, hend⟩ := exec_packetSide_reports i s (decodeStream_packetSide hdecode)
      exact ⟨_, _, hend s (.refl s), hend t h.sameStream, h.decodedOutcome r frag, by simp⟩
    | error e =>
      exact ⟨_, _, rfl, rfl, by simp [SameButDiag, noPreambleOutcome, *], rfl⟩
  · exact ⟨_, _, rfl, rfl, by simp [SameButDiag, *], rfl⟩

theorem blockStep_alike {s t : State} (h : SameButDiag s t) :
    GoOnAlike s.hostPort (blockStep s) (blockStep t) := by
  by_cases hb : s.phase = .busy
  · rw [blockStep_of_busy hb, blockStep_of_busy (h.phase_eq.trans hb)]
    exact scanStep_alike h
  · rw [blockStep_of_not_busy hb, blockStep_of_not_busy (h.phase_eq.symm ▸ hb)]
    exact ⟨s, t, rfl, rfl, h, rfl⟩

theorem hostStep_alike {s t : State} {a : HostAccess} (h : SameButDiag s t) (ha : a ≠ .read 0x00#8) :
    GoOnAlike s.hostPort (hostStep a s) (hostStep a t) := by
  cases hdecode : decode (.access a) with
  | ok i =>
    obtain ⟨act, hact, hexec⟩ := exec_hostSide s (decodeAccess_hostSide hdecode)
    have hi : i ≠ .readCtrl := fun hi => ha (decodeAccess_readCtrl (hi ▸ hdecode))
    rw [hostStep_of_ok hdecode, hostStep_of_ok hdecode]
    exact ⟨_, _, hexec s (.refl s) fun _ => rfl, hexec t h (absurd · hi), h.hostAction hact,
      hostAction_hostPort hact⟩
  | error e =>
    rw [hostStep_of_error hdecode, hostStep_of_error hdecode]
    obtain ⟨hphase, hlen, hcursor, hreadings, hbitbuf, hhost, hread, hfree⟩ := h
    cases e <;> exact ⟨_, _, rfl, rfl, by simp [SameButDiag, unmappedAccess, *], rfl⟩

/-- One step of two states that differ in VERBOSE and DIAG only, when the host does not read CTRL. -/
theorem step_alike {s t : State} (h : SameButDiag s t)
    (hhost : ∀ slot ∈ s.hostPort, slot ≠ .access (.read 0x00#8)) :
    GoOnAlike s.hostPort.tail (step s) (step t) := by
  rcases step_cases s with ⟨hport, _⟩ | ⟨rest, hport, _⟩ | ⟨a, rest, hport, hstep⟩
  · have hs : HostQuiet s := .inl hport
    have ht : HostQuiet t := .inl (h.hostPort_eq.trans hport)
    rw [step_quiet hs, step_quiet ht]
    exact blockStep_alike h.takeSlot
  · have hs : HostQuiet s := .inr ⟨rest, hport⟩
    have ht : HostQuiet t := .inr ⟨rest, h.hostPort_eq.trans hport⟩
    rw [step_quiet hs, step_quiet ht]
    exact blockStep_alike h.takeSlot
  · have ha : a ≠ .read 0x00#8 := fun ha => hhost (.access a) (by simp [hport]) (by rw [ha])
    have ht : step t = hostStep a (takeSlot t) := by
      simp [step, stepOnce, h.hostPort_eq, hport]
    rw [hstep, ht]
    exact hostStep_alike h.takeSlot ha

theorem run_succ_of_next {s t : State} (h : step s = .next t) (n : Nat) :
    Host.Core.run core (n + 1) s = Host.Core.run core n t := by
  simp only [Host.Core.run, show core.step s = .next t from h]

/-- Settles O53, by induction on the number of steps. -/
theorem verboseDoesNotInterfere : Obligations.VerboseDoesNotInterfere := by
  intro n
  induction n with
  | zero =>
    intro s t s' h _ hrun
    cases hrun
    exact ⟨t, rfl, h⟩
  | succ n ih =>
    intro s t s' h hhost hrun
    obtain ⟨u, v, hs, ht, huv, hport⟩ := step_alike h hhost
    have hnext : ∀ slot ∈ u.hostPort, slot ≠ .access (.read 0x00#8) := by
      rw [hport]
      exact fun slot hslot => hhost slot (List.mem_of_mem_tail hslot)
    rw [run_succ_of_next hs n] at hrun
    rw [run_succ_of_next ht n]
    exact ih u v s' huv hnext hrun

end Sys2Proof.Machine
end

section
/-! PROOFS. The register map as the host sees it, and what a LOAD leaves in BITBUF. -/

namespace Sys2Proof.Machine

/-! ### Register numbers (R10, R17, R18) -/

theorem decode_ctrlWrite (data : Word) : decode (.access (.write 0x00 data)) = .ok (decodeCtrlWrite data) := rfl

/-- Settles O10: the order of the tests in `decodeCtrlWrite`. -/
theorem ctrlWriteOrder : Obligations.CtrlWriteOrder := by
  intro data
  simp only [decode_ctrlWrite, decodeCtrlWrite]
  refine ⟨fun hsrst => ?_, fun hsrst hstart => ?_, fun hsrst hstart => ?_⟩
  · rw [if_pos hsrst]
  · rw [if_neg (Bool.eq_false_iff.mp hsrst), if_pos hstart]
  · rw [if_neg (Bool.eq_false_iff.mp hsrst), if_neg (Bool.eq_false_iff.mp hstart)]

@[simp] theorem fieldOfNumber_fieldNumber (f : Field) : fieldOfNumber (fieldNumber f) = some f := by
  cases f <;> rfl

theorem fieldOfNumber_eq_none_iff (n : BitVec 4) : fieldOfNumber n = none ↔ 11 ≤ n.toNat := by
  revert n
  decide

/-- A pending host access is what the step performs, its slot taken. -/
theorem step_access {s : State} {a : HostAccess} {rest : List HostSlot} (hport : s.hostPort = .access a :: rest) :
    step s = hostStep a { s with hostPort := rest } := by
  simp [step, stepOnce, takeSlot, hport]

/-- A read of a number the map does not have is one of a reserved result register, or no row of the table. -/
theorem decodeRead_unmapped {reg : BitVec 8} (hlow : 5 ≤ reg.toNat) (hgap : reg.toNat < 16 ∨ 26 < reg.toNat) :
    (∃ n, fieldOfNumber n = none ∧ decode (.access (.read reg)) = .ok (.readF n)) ∨
    decode (.access (.read reg)) = .error (.reservedRead reg) := by
  have hne (k : BitVec 8) (hk : k.toNat < 5) : reg ≠ k := by
    rintro rfl
    omega
  simp only [decode, decodeAccess, decodeRead, hne 0x00#8 (by decide), hne 0x01#8 (by decide),
    hne 0x02#8 (by decide), hne 0x03#8 (by decide), hne 0x04#8 (by decide), if_false]
  split
  · next hrow =>
    have hhigh := congrArg BitVec.toNat hrow
    refine .inl ⟨_, (fieldOfNumber_eq_none_iff _).mpr ?_, rfl⟩
    simp only [BitVec.extractLsb'_toNat, BitVec.toNat_ofNat, Nat.shiftRight_eq_div_pow] at hhigh ⊢
    omega
  · exact .inr rfl

theorem decodeWrite_ignored {reg : BitVec 8} (hctrl : reg ≠ 0x00#8) (hlen : reg ≠ 0x02#8) (data : Word) :
    decode (.access (.write reg data)) = .error (.ignoredWrite reg) := by
  simp [decode, decodeAccess, decodeWrite, hctrl, hlen]

/-- Settles O14: the access decodes to a reserved result register or to no row. -/
theorem stepOutsideRegisterMap : Obligations.StepOutsideRegisterMap := by
  refine fun s rest reg => ⟨fun hport hlow hgap => ?_, fun data hport hctrl hlen => ?_⟩
  · rw [step_access hport]
    rcases decodeRead_unmapped hlow hgap with ⟨n, hn, hdecode⟩ | hdecode
    · rw [hostStep_of_ok hdecode, exec_readF_reserved hn]
      rfl
    · rw [hostStep_of_error hdecode]
      rfl
  · rw [step_access hport, hostStep_of_error (decodeWrite_ignored hctrl hlen data)]
    rfl

/-! ### The values of the reads (R15 to R18, R142, R143) -/

/-- Settles O42. -/
theorem readFReturnsRegister : Obligations.ReadFReturnsRegister := fun _ f hb =>
  exec_readF_not_busy (fieldOfNumber_fieldNumber f) hb

/-- Settles O43. -/
theorem readFReservedReadsZero : Obligations.ReadFReservedReadsZero := fun s n hn =>
  exec_readF_reserved ((fieldOfNumber_eq_none_iff n).mpr hn) s

theorem getLsbD_flagBit (k : Nat) (b : Bool) (j : Nat) :
    (flagBit k b).getLsbD j = (decide (k < 32) && decide (k = j) && b) := by
  cases b <;> simp [flagBit, BitVec.getLsbD_twoPow]

/-- Bit `n` of VALID is `V[n]` (R15). -/
theorem getLsbD_validWord_fieldNumber (r : Readings) (f : Field) :
    (validWord r).getLsbD (fieldNumber f).toNat = (Readings.get r f).isSome := by
  simp only [validWord, BitVec.getLsbD_or, getLsbD_flagBit]
  cases f <;> simp [fieldNumber, Readings.get]

theorem getLsbD_validWord_reserved (r : Readings) {k : Nat} (hk : 11 ≤ k) : (validWord r).getLsbD k = false := by
  have hne (j : Nat) (hj : j < 11) : j ≠ k := by omega
  simp [validWord, getLsbD_flagBit, hne]

/-- Settles O44. -/
theorem readValidReturnsMask : Obligations.ReadValidReturnsMask := fun s hb =>
  ⟨validWord s.readings, exec_readValid_not_busy hb, getLsbD_validWord_fieldNumber s.readings,
    fun _ hk => getLsbD_validWord_reserved s.readings hk⟩

theorem busyBit_eq (p : Phase) : busyBit p = decide (p = .busy) := by cases p <;> rfl

theorem doneBit_eq (p : Phase) : doneBit p = decide (p = .done) := by cases p <;> rfl

theorem getLsbD_statusWord (p : Phase) (k : Nat) :
    (statusWord p).getLsbD k = (decide (0 = k) && decide (p = .busy) || decide (1 = k) && decide (p = .done)) := by
  simp [statusWord, getLsbD_flagBit, busyBit_eq, doneBit_eq]

theorem getLsbD_ctrlWord (v : Bool) (k : Nat) : (ctrlWord v).getLsbD k = (decide (1 = k) && v) := by
  simp [ctrlWord, getLsbD_flagBit]

/-- Settles O45. -/
theorem readStatusReturnsPhase : Obligations.ReadStatusReturnsPhase := by
  refine fun s => ⟨statusWord s.phase, rfl, ?_, ?_, fun k hk => ?_⟩ <;> rw [getLsbD_statusWord]
  · simp
  · simp
  · simp [show 0 ≠ k by omega, show 1 ≠ k by omega]

/-- Settles O46. -/
theorem readCursorLenCtrl : Obligations.ReadCursorLenCtrl := by
  refine fun s => ⟨rfl, rfl, ctrlWord s.verbose, rfl, ?_, fun k hk => ?_⟩ <;> rw [getLsbD_ctrlWord]
  · simp
  · simp [hk.symm]

/-! ### LOAD (R140) -/

theorem lenAfterWrite_legal (old : Word) {v : Word} (hv : v.toNat ≤ Config.maxLen) :
    lenAfterWrite old (some v) = v := if_pos hv

theorem lenAfterWrite_refused (old : Word) {v : Word} (hv : Config.maxLen < v.toNat) :
    lenAfterWrite old (some v) = old := if_neg hv.not_ge

/-- What a run leaves in each cell. -/
theorem bit_writeRun (m : Memory) (a : Nat) (bits : List Bool) (c : Nat) :
    Memory.bit (Memory.writeRun m a bits) c
      = if a ≤ c ∧ c < a + bits.length then bits.getD (c - a) false else Memory.bit m c := by
  split
  · next hin =>
    obtain ⟨k, rfl⟩ := Nat.exists_eq_add_of_le hin.1
    have hk : k < bits.length := by omega
    rw [bit_writeRun_inside bits m a k hk, Nat.add_sub_cancel_left, List.getD_eq_getElem _ _ hk]
  · next hout => exact bit_writeRun_outside bits m a c (by omega)

theorem bit_writeStray_untouched {n : Nat} {m : Memory} {a c : Nat} {bits : List Bool}
    (h : ∀ k < bits.length, landingCell n (a + k) ≠ some c) :
    Memory.bit (Memory.writeStray n m a bits) c = Memory.bit m c := by
  rcases bit_writeStray n bits m a c with ⟨_, hbit⟩ | ⟨k, hk, hland, _⟩
  · exact hbit
  · exact absurd hland (h k hk)

theorem bit_writeStray_last {n : Nat} {m : Memory} {a c k : Nat} {bits : List Bool} (hk : k < bits.length)
    (hland : landingCell n (a + k) = some c)
    (hlast : ∀ j, k < j → j < bits.length → landingCell n (a + j) ≠ some c) :
    Memory.bit (Memory.writeStray n m a bits) c = bits.getD k false := by
  rcases bit_writeStray n bits m a c with ⟨hnone, _⟩ | ⟨i, hi, hlandi, hlasti, hbit⟩
  · exact absurd hland (hnone k hk)
  · have hik : i = k := by
      rcases lt_trichotomy i k with hlt | heq | hgt
      · exact absurd hland (hlasti k hlt hk)
      · exact heq
      · exact absurd hlandi (hlast i hgt hi)
    subst hik
    rw [hbit, List.getD_eq_getElem _ _ hi]

/-- Settles O35: the run of existing cells and the run past the last one, each by what it leaves in a cell. -/
theorem loadEffect : Obligations.LoadEffect := by
  refine ⟨fun n a ha => landingCell_of_lt n ha, fun n a c hland => landingCell_lt hland, ?_⟩
  intro base bits len s hb
  have hlegal : ∀ v, len = some v → v.toNat ≤ Config.maxLen → lenAfterWrite s.len len = v := by
    rintro v rfl hv
    exact lenAfterWrite_legal s.len hv
  have hrefused : ∀ v, len = some v → Config.maxLen < v.toNat → lenAfterWrite s.len len = s.len := by
    rintro v rfl hv
    exact lenAfterWrite_refused s.len hv
  have hkept : len = none → lenAfterWrite s.len len = s.len := by
    rintro rfl
    rfl
  cases hrun : runExists base bits with
  | true =>
    refine ⟨_, exec_load_run hb hrun len, hlegal, hrefused, hkept, fun _ => ?_, fun hne hpast => ?_⟩
    · exact ⟨bit_writeRun s.bitbuf base.toNat bits, rfl⟩
    · rcases (runExists_iff base bits).mp hrun with hnil | hfits
      · exact absurd hnil hne
      · omega
  | false =>
    refine ⟨_, exec_load_beyond hb hrun len, hlegal, hrefused, hkept, fun hfits => ?_, fun _ _ => ?_⟩
    · rw [(runExists_iff base bits).mpr hfits] at hrun
      cases hrun
    · exact ⟨fun a h => bit_writeStray_untouched h, fun a k hk hland hlast => bit_writeStray_last hk hland hlast,
        rfl, rfl⟩

end Sys2Proof.Machine
end

section
/-! PROOFS. What a scan step reads of BITBUF: the window and the in-phase bits from the cursor to LEN, and nothing else;
and what the row it runs leaves unchanged. -/

namespace Sys2Proof.Machine

/-! ### The frame of a packet-side row (R32, R69, R157) -/

/-- Settles O31: the row ends with one record and one commit, which touch the DIAG port, the map and the cursor. -/
theorem packetRowsCompleteAndFrame : Obligations.PacketRowsCompleteAndFrame := by
  intro i s hi
  obtain ⟨r, frag, _, _, hend⟩ := exec_packetSide_reports i s hi
  exact ⟨_, hend s (.refl s), by simp⟩

/-! ### The raw and the logical stream, bit by bit (R33, R34) -/

theorem deinterleave_getElem? (raw : List Bool) (k : Nat) : (deinterleave raw)[k]? = raw[2 * k]? := by
  induction raw using deinterleave.induct generalizing k with
  | case1 => rfl
  | case2 b => cases k <;> rfl
  | case3 b c rest ih =>
    cases k with
    | zero => rfl
    | succ k => exact ih k

@[simp] theorem deinterleave_length (raw : List Bool) : (deinterleave raw).length = (raw.length + 1) / 2 := by
  induction raw using deinterleave.induct with
  | case1 => rfl
  | case2 b => simp [deinterleave]
  | case3 b c rest ih =>
    simp only [deinterleave, List.length_cons, ih]
    omega

theorem rawStream_getElem? (s : State) (k : Nat) :
    (rawStream s)[k]? =
      if k < s.len.toNat - s.cursor.toNat then some (Memory.bit s.bitbuf (s.cursor.toNat + k)) else none := by
  simp [rawStream, getElem?_def, range_getElem]

theorem logicalStream_getElem? (s : State) (k : Nat) : (logicalStream s)[k]? = (rawStream s)[2 * k]? :=
  deinterleave_getElem? ..

@[simp] theorem logicalStream_length (s : State) : (logicalStream s).length = logicalLength s := by
  simp [logicalStream, rawStream, logicalLength]

section
variable {s t : State}

/-- One bit of the raw stream depends on its own cell only. -/
theorem rawStream_getElem?_congr (hlen : s.len = t.len) (hcursor : s.cursor = t.cursor) {k : Nat}
    (hbit : k < s.len.toNat - s.cursor.toNat →
      Memory.bit s.bitbuf (s.cursor.toNat + k) = Memory.bit t.bitbuf (s.cursor.toNat + k)) :
    (rawStream s)[k]? = (rawStream t)[k]? := by
  rw [rawStream_getElem?, rawStream_getElem?, ← hlen, ← hcursor]
  exact if_ctx_congr Iff.rfl (fun hk => by rw [hbit hk]) fun _ => rfl

/-- The logical stream is decided by the in-phase bits. -/
theorem logicalStream_congr (hlen : s.len = t.len) (hcursor : s.cursor = t.cursor)
    (hphase : ∀ k, Memory.bit s.bitbuf (s.cursor.toNat + 2 * k) = Memory.bit t.bitbuf (s.cursor.toNat + 2 * k)) :
    logicalStream s = logicalStream t :=
  List.ext_getElem? fun k => by
    rw [logicalStream_getElem?, logicalStream_getElem?]
    exact rawStream_getElem?_congr hlen hcursor fun _ => hphase k

/-- The raw stream is decided by the cells below LEN. -/
theorem rawStream_congr (hlen : s.len = t.len) (hcursor : s.cursor = t.cursor)
    (hbelow : ∀ a < s.len.toNat, Memory.bit s.bitbuf a = Memory.bit t.bitbuf a) : rawStream s = rawStream t :=
  List.ext_getElem? fun _ => rawStream_getElem?_congr hlen hcursor fun hk => hbelow _ (by omega)

end

/-- The decoder looks at the 32-bit window and at the logical stream only. -/
theorem decode_stream_congr {raw other : List Bool} (hwindow : raw.take 32 = other.take 32)
    (hlogical : deinterleave raw = deinterleave other) : decode (.stream raw) = decode (.stream other) := by
  have htest : preambleTest raw = preambleTest other := by simp only [preambleTest, hwindow]
  simp only [decode, decodeStream, htest, hlogical]

/-- Settles O7: the two streams have the same window and the same logical stream. -/
theorem complementBitsIgnored : Obligations.ComplementBitsIgnored := by
  intro s t hlen hcursor hwindow hphase
  refine decode_stream_congr (List.ext_getElem? fun k => ?_) (logicalStream_congr hlen hcursor hphase)
  rw [List.getElem?_take, List.getElem?_take]
  exact if_ctx_congr Iff.rfl (fun hk => rawStream_getElem?_congr hlen hcursor fun _ => hwindow k hk) fun _ => rfl

/-! ### An attempt on a given logical stream reads no cell of BITBUF (R33, R34) -/

/-- The action neither reads nor changes BITBUF. -/
def BitbufBlind (f : State → State) : Prop := ∀ s m, f { s with bitbuf := m } = { f s with bitbuf := m }

theorem BitbufBlind.ite {c : State → Prop} [∀ s, Decidable (c s)] {f g : State → State}
    (hc : ∀ s m, c { s with bitbuf := m } ↔ c s) (hf : BitbufBlind f) (hg : BitbufBlind g) :
    BitbufBlind fun s => if c s then f s else g s := by
  intro s m
  by_cases h : c s
  · simp only [if_pos h, if_pos ((hc s m).mpr h)]
    exact hf s m
  · simp only [if_neg h, if_neg fun h' => h ((hc s m).mp h')]
    exact hg s m

theorem decodedOutcome_bitbufBlind {mk : State → DiagRecord} (frag : Fragment)
    (hmk : ∀ s m, mk { s with bitbuf := m } = mk s) : BitbufBlind fun s => decodedOutcome s (mk s) frag := by
  intro s m
  simp only [hmk]
  cases hv : s.verbose <;> simp [decodedOutcome, present, commit, advance, hv]

theorem raiseOutcome_bitbufBlind {mk : State → DiagRecord} (hmk : ∀ s m, mk { s with bitbuf := m } = mk s) :
    BitbufBlind fun s => raiseOutcome s (mk s) :=
  decodedOutcome_bitbufBlind [] hmk

theorem packetAttempt_bitbufBlind (t : SensorType) (ns : List Nibble) (ocs : Check) (h : Header) (frag : Fragment)
    (info : DiagInfo) : BitbufBlind fun s => packetAttempt s t ns ocs h frag info :=
  .ite (fun _ _ => Iff.rfl) (raiseOutcome_bitbufBlind fun _ _ => rfl)
    (.ite (fun _ _ => Iff.rfl) (decodedOutcome_bitbufBlind frag fun _ _ => rfl)
      (raiseOutcome_bitbufBlind fun _ _ => rfl))

theorem unknownAttempt_bitbufBlind (id : BitVec 16) (l : List Bool) : BitbufBlind fun s => unknownAttempt s id l :=
  .ite (fun _ _ => Iff.rfl) (raiseOutcome_bitbufBlind fun _ _ => rfl)
    (.ite (fun _ _ => Iff.rfl) (raiseOutcome_bitbufBlind fun _ _ => rfl)
      (raiseOutcome_bitbufBlind fun _ _ => rfl))

theorem dispatchStage_bitbufBlind (l : List Bool) : BitbufBlind fun s => dispatchStage s l := by
  unfold dispatchStage
  cases dispatch (sensorId l) with
  | none => exact unknownAttempt_bitbufBlind _ _
  | some type => cases type <;> exact packetAttempt_bitbufBlind _ _ _ _ _ _

theorem idStage_bitbufBlind (l : List Bool) : BitbufBlind fun s => idStage s l :=
  .ite (fun _ _ => Iff.rfl) (raiseOutcome_bitbufBlind fun _ _ => rfl) (dispatchStage_bitbufBlind l)

theorem syncStage_bitbufBlind (l : List Bool) : BitbufBlind fun s => syncStage s l :=
  .ite (fun _ _ => Iff.rfl) (raiseOutcome_bitbufBlind fun _ _ => rfl)
    (.ite (fun _ _ => Iff.rfl) (idStage_bitbufBlind l) (raiseOutcome_bitbufBlind fun _ _ => rfl))

/-- Settles O6: the stream bit by bit, and the attempt, which reads BITBUF through it only. -/
theorem logicalStreamView : Obligations.LogicalStreamView := by
  intro s
  refine ⟨logicalStream_length s, fun k hk => ?_, fun hgo => by omega, fun m hwindow hphase => ⟨?_, ?_⟩⟩
  · rw [logicalStream_getElem?, rawStream_getElem?]
    exact if_pos (by omega)
  · exact complementBitsIgnored { s with bitbuf := m } s rfl rfl hwindow hphase
  · rw [logicalStream_congr (s := { s with bitbuf := m }) (t := s) rfl rfl hphase]
    exact syncStage_bitbufBlind (logicalStream s) s m

/-! ### The step reads no cell at or above LEN (R33) -/

/-- With another buffer that holds the same logical stream, a packet-side row does the same to the rest of the state. -/
theorem exec_packetSide_bitbuf {i : Instr} {s : State} {m : Memory} (hi : packetSide i = true)
    (hstream : logicalStream { s with bitbuf := m } = logicalStream s) :
    ∃ t, exec i s = .next t ∧ exec i { s with bitbuf := m } = .next { t with bitbuf := m } := by
  suffices h : ∃ attempt, BitbufBlind attempt ∧ exec i s = .next (attempt s) ∧
      exec i { s with bitbuf := m } = .next (attempt { s with bitbuf := m }) by
    obtain ⟨attempt, hblind, hs, hm⟩ := h
    exact ⟨attempt s, hs, by rw [hm, hblind]⟩
  cases i with
  | preamble => exact ⟨_, syncStage_bitbufBlind (logicalStream s), rfl, by rw [← hstream]; rfl⟩
  | sync => exact ⟨_, idStage_bitbufBlind (logicalStream s), rfl, by rw [← hstream]; rfl⟩
  | indoor h d c => exact ⟨_, packetAttempt_bitbufBlind _ _ _ _ _ _, rfl, rfl⟩
  | rain h d c => exact ⟨_, packetAttempt_bitbufBlind _ _ _ _ _ _, rfl, rfl⟩
  | wind h d c => exact ⟨_, packetAttempt_bitbufBlind _ _ _ _ _ _, rfl, rfl⟩
  | out2 h d c => exact ⟨_, packetAttempt_bitbufBlind _ _ _ _ _ _, rfl, rfl⟩
  | out1 h d c => exact ⟨_, packetAttempt_bitbufBlind _ _ _ _ _ _, rfl, rfl⟩
  | unk id tail => exact ⟨_, unknownAttempt_bitbufBlind _ _, rfl, rfl⟩
  | _ => cases hi

theorem scanStep_bitbuf {s : State} {m : Memory} (hraw : rawStream { s with bitbuf := m } = rawStream s) :
    ∃ t, scanStep s = .next t ∧ scanStep { s with bitbuf := m } = .next { t with bitbuf := m } := by
  have hgo : scanGoesOn { s with bitbuf := m } = scanGoesOn s := rfl
  unfold scanStep
  rw [hgo, hraw]
  split
  · cases hdecode : decode (.stream (rawStream s)) with
    | ok i => exact exec_packetSide_bitbuf (decodeStream_packetSide hdecode) (congrArg deinterleave hraw)
    | error e => exact ⟨_, rfl, rfl⟩
  · exact ⟨_, rfl, rfl⟩

theorem blockStep_bitbuf {s : State} {m : Memory} (hraw : rawStream { s with bitbuf := m } = rawStream s) :
    ∃ t, blockStep s = .next t ∧ blockStep { s with bitbuf := m } = .next { t with bitbuf := m } := by
  by_cases hb : s.phase = .busy
  · rw [blockStep_of_busy hb, blockStep_of_busy (s := { s with bitbuf := m }) hb]
    exact scanStep_bitbuf hraw
  · exact ⟨s, blockStep_of_not_busy hb, blockStep_of_not_busy (s := { s with bitbuf := m }) hb⟩

/-- Settles O8: the step is the block's, and the block sees the same raw stream in both buffers. -/
theorem beyondLenUnread : Obligations.BeyondLenUnread := by
  intro s m hquiet hbelow t hstep
  have hraw : rawStream { takeSlot s with bitbuf := m } = rawStream (takeSlot s) := rawStream_congr rfl rfl hbelow
  obtain ⟨u, hs, hm⟩ := blockStep_bitbuf hraw
  rw [step_quiet hquiet, hs] at hstep
  cases hstep
  rw [step_quiet (s := { s with bitbuf := m }) hquiet]
  exact hm

end Sys2Proof.Machine
end

section
/-! PROOFS. The decoder reads back what the encoder writes: the frame, the id, header, data and checksum nibbles of a
packet whatever follows them, and the host accesses; and what it reads is well formed. -/

namespace Sys2Proof

open Machine

/-! ### The frame (R45 to R47, R66) -/

theorem enc_append (ns ms : List Nibble) : enc (ns ++ ms) = enc ns ++ enc ms := by
  rw [enc, nibblesBits_append, doubleBits_append]
  rfl

/-- The four preamble nibbles are the raw window, and the sync nibble follows it. -/
theorem enc_frameNibbles : enc frameNibbles = preambleBits ++ enc [0xA#4] := by decide

theorem preambleTest_preambleBits_append (raw : List Bool) : preambleTest (preambleBits ++ raw) = true := by
  have hlength : preambleBits.length = 32 := by decide
  exact decide_eq_true (List.take_left' hlength)

/-- A frame passes the preamble test, and its logical stream is what the row is read from. -/
theorem decode_frame_append (raw : List Bool) :
    decode (.stream (enc frameNibbles ++ raw))
      = .ok (decodeLogical (nibblesBits frameNibbles ++ deinterleave raw)) := by
  have htest : preambleTest (enc frameNibbles ++ raw) = true := by
    rw [enc_frameNibbles, List.append_assoc]
    exact preambleTest_preambleBits_append _
  rw [decode, decodeStream, if_pos htest, enc, deinterleave_doubleBits_append]

/-! ### A framed packet with an id (R48, R82) -/

theorem nib_nibblesBits_of_getElem? {ns : List Nibble} {j : Nat} {n : Nibble} (hj : ns[j]? = some n)
    (l : List Bool) : nib (nibblesBits ns ++ l) (4 * j) = n := by
  obtain ⟨hlt, hn⟩ := List.getElem?_eq_some_iff.mp hj
  rw [nib_nibblesBits ns l j hlt, hn]

/-- What stands behind a nibble list in a logical stream. -/
theorem nib_nibblesBits_behind (ns : List Nibble) (l : List Bool) (k : Nat) :
    nib (nibblesBits ns ++ l) (4 * ns.length + k) = nib l k := by
  induction ns with
  | nil => simp
  | cons n ns ih =>
    rw [List.length_cons, show 4 * (ns.length + 1) + k = 4 * ns.length + k + 4 by omega,
      nib_nibblesBits_succ, ih]

@[simp] theorem unkBits_length (id : BitVec 16) (l : List Bool) : (unkBits id l).length = 36 + l.length := by
  rw [unkBits, List.length_append, nibblesBits_length]
  rfl

@[simp] theorem drop_unkBits (id : BitVec 16) (l : List Bool) : (unkBits id l).drop 36 = l :=
  List.drop_left' (by simp [frameNibbles, idNibbles])

/-- The nibbles behind the id. -/
theorem nib_unkBits (id : BitVec 16) (l : List Bool) (k : Nat) : nib (unkBits id l) (36 + k) = nib l k :=
  nib_nibblesBits_behind (frameNibbles ++ idNibbles id) l k

/-- The sync nibble. -/
theorem nib_unkBits_sync (id : BitVec 16) (l : List Bool) : nib (unkBits id l) 16 = 0xA#4 :=
  nib_nibblesBits_of_getElem? (ns := frameNibbles ++ idNibbles id) (j := 4) rfl l

@[simp] theorem sensorId_unkBits (id : BitVec 16) (l : List Bool) : sensorId (unkBits id l) = id := by
  have hdigit {j : Nat} {n : Nibble} (hj : (idNibbles id)[j]? = some n) : nib (unkBits id l) (20 + 4 * j) = n := by
    rw [unkBits, nibblesBits_append, List.append_assoc]
    exact (nib_nibblesBits_behind frameNibbles _ _).trans (nib_nibblesBits_of_getElem? hj l)
  calc sensorId (unkBits id l)
      = nib (unkBits id l) (20 + 4 * 0) ++ nib (unkBits id l) (20 + 4 * 1) ++ nib (unkBits id l) (20 + 4 * 2) ++
          nib (unkBits id l) (20 + 4 * 3) := rfl
    _ = id.extractLsb' 12 4 ++ id.extractLsb' 8 4 ++ id.extractLsb' 4 4 ++ id.extractLsb' 0 4 := by
        rw [hdigit (j := 0) rfl, hdigit (j := 1) rfl, hdigit (j := 2) rfl, hdigit (j := 3) rfl]
    _ = id := idNibbles_join id

/-- A frame with a whole id is read as a packet (R62). -/
theorem decodeLogical_unkBits (id : BitVec 16) (l : List Bool) :
    decodeLogical (unkBits id l) = decodePacket (unkBits id l) := by
  have hsync : ¬((unkBits id l).length < 20 ∨ nib (unkBits id l) 16 ≠ 0xA#4) :=
    not_or.mpr ⟨by rw [unkBits_length]; omega, not_not.mpr (nib_unkBits_sync id l)⟩
  rw [decodeLogical, if_neg hsync, if_neg (by simp)]

/-- Raw bits that begin with a frame and an id decode to a packet row, whatever follows. -/
theorem decode_unkBits_append (id : BitVec 16) (l raw : List Bool) :
    decode (.stream (doubleBits (unkBits id l) ++ raw)) = .ok (decodePacket (unkBits id (l ++ deinterleave raw))) := by
  have hraw : doubleBits (unkBits id l) ++ raw
      = enc frameNibbles ++ (doubleBits (nibblesBits (idNibbles id) ++ l) ++ raw) := by
    simp [unkBits, enc, nibblesBits_append, doubleBits_append]
  have hlogical : nibblesBits frameNibbles ++ (nibblesBits (idNibbles id) ++ l ++ deinterleave raw)
      = unkBits id (l ++ deinterleave raw) := by
    simp [unkBits, nibblesBits_append]
  rw [hraw, decode_frame_append, deinterleave_doubleBits_append, hlogical, decodeLogical_unkBits]

/-! ### A packet from preamble to checksum (R46, R50, R51) -/

@[simp] theorem headerNibbles_length (h : Header) : (headerNibbles h).length = 4 := rfl

/-- The logical stream of a packet up to its checksum, with `tail` behind it. -/
def packetBits (id : BitVec 16) (h : Header) (data : List Nibble) (c : Check) (tail : List Bool) : List Bool :=
  unkBits id (nibblesBits (headerNibbles h ++ data ++ [c.low, c.high]) ++ tail)

/-- `packetBits` is what the decoder sees of an encoded packet: the raw bits behind its checksum are the tail. -/
theorem decode_packetBits (id : BitVec 16) (h : Header) (data : List Nibble) (c : Check) (raw : List Bool) :
    decode (.stream (enc (frameNibbles ++ summedNibbles id h data ++ [c.low, c.high]) ++ raw))
      = .ok (decodePacket (packetBits id h data c (deinterleave raw))) := by
  have hbits : nibblesBits (frameNibbles ++ summedNibbles id h data ++ [c.low, c.high])
      = unkBits id (nibblesBits (headerNibbles h ++ data ++ [c.low, c.high])) := by
    simp [unkBits, summedNibbles, nibblesBits_append]
  rw [enc, hbits, decode_unkBits_append]
  rfl

section
variable (id : BitVec 16) (h : Header) (data : List Nibble) (c : Check) (tail : List Bool)

/-- Nibble `9 + j` of the packet is entry `j` of header, data and checksum. -/
theorem nib_packetBits {j : Nat} {n : Nibble} (hj : (headerNibbles h ++ data ++ [c.low, c.high])[j]? = some n) :
    nib (packetBits id h data c tail) (36 + 4 * j) = n := by
  rw [packetBits, nib_unkBits, nib_nibblesBits_of_getElem? hj]

@[simp] theorem sensorId_packetBits : sensorId (packetBits id h data c tail) = id := sensorId_unkBits ..

@[simp] theorem headerOf_packetBits : headerOf (packetBits id h data c tail) = h :=
  (Header.mk.injEq ..).mpr ⟨nib_packetBits id h data c tail (j := 0) rfl,
    nib_packetBits id h data c tail (j := 1) rfl,
    nib_packetBits id h data c tail (j := 2) rfl, nib_packetBits id h data c tail (j := 3) rfl⟩

theorem dataNib_packetBits {j : Nat} (hj : j < data.length) : dataNib (packetBits id h data c tail) j = data[j] := by
  have hentry : (headerNibbles h ++ data ++ [c.low, c.high])[4 + j]? = some data[j] := by
    rw [List.append_assoc, List.getElem?_append_right (by simp), List.getElem?_append_left (by simpa)]
    simp [hj]
  rw [dataNib, show 52 + 4 * j = 36 + 4 * (4 + j) by omega]
  exact nib_packetBits id h data c tail hentry

/-- The checksum stands right behind the data. -/
theorem checkOf_packetBits {ds : Nat} (hds : ds = 52 + 4 * data.length) :
    checkOf (packetBits id h data c tail) ds = c := by
  have hcheck (k : Nat) :
      (headerNibbles h ++ data ++ [c.low, c.high])[4 + data.length + k]? = [c.low, c.high][k]? := by
    rw [List.getElem?_append_right (by simp)]
    simp
  have hlow := nib_packetBits id h data c tail (hcheck 0)
  have hhigh := nib_packetBits id h data c tail (hcheck 1)
  rw [show 36 + 4 * (4 + data.length + 0) = ds by omega] at hlow
  rw [show 36 + 4 * (4 + data.length + 1) = ds + 4 by omega] at hhigh
  exact (Check.mk.injEq ..).mpr ⟨hlow, hhigh⟩

end

/-! ### The data fields of the five types (R54 to R58) -/

theorem indoorDataOf_packetBits (id : BitVec 16) (h : Header) (d : IndoorData) (c : Check) (tail : List Bool) :
    indoorDataOf (packetBits id h (indoorNibbles d) c tail) = d := by
  simp [indoorDataOf, dataNib_packetBits, indoorNibbles]

theorem rainDataOf_packetBits (id : BitVec 16) (h : Header) (d : RainData) (c : Check) (tail : List Bool) :
    rainDataOf (packetBits id h (rainNibbles d) c tail) = d := by
  simp [rainDataOf, dataNib_packetBits, rainNibbles]

theorem windDataOf_packetBits (id : BitVec 16) (h : Header) (d : WindData) (c : Check) (tail : List Bool) :
    windDataOf (packetBits id h (windNibbles d) c tail) = d := by
  simp [windDataOf, dataNib_packetBits, windNibbles]

theorem out2DataOf_packetBits (id : BitVec 16) (h : Header) (d : Out2Data) (c : Check) (tail : List Bool) :
    out2DataOf (packetBits id h (out2Nibbles d) c tail) = d := by
  simp [out2DataOf, dataNib_packetBits, out2Nibbles]

theorem out1DataOf_packetBits (id : BitVec 16) (h : Header) (d : Out1Data) (c : Check) (tail : List Bool) :
    out1DataOf (packetBits id h (out1Nibbles d) c tail) = d := by
  simp [out1DataOf, dataNib_packetBits, out1Nibbles]

/-! ### Dispatch (R52, R83) -/

theorem dispatch_eq_some_iff (id : BitVec 16) (t : SensorType) : dispatch id = some t ↔ id = sensorTypeId t := by
  constructor
  · intro h
    unfold dispatch at h
    split_ifs at h with hid hid hid hid hid <;> cases h <;> exact hid
  · rintro rfl
    exact dispatch_sensorTypeId t

/-- Settles O9: dispatch and the table are inverse to each other, and what the table does not hold is unknown. -/
theorem dispatchTable : Obligations.DispatchTable := by
  intro id
  refine ⟨dispatch_eq_some_iff id, ?_, ⟨rfl, rfl⟩, ⟨rfl, rfl⟩, ⟨rfl, rfl⟩, ⟨rfl, rfl⟩, ⟨rfl, rfl⟩⟩
  rw [dispatch_eq_none_iff]
  simp [unknownId, and_assoc]

/-! ### A packet of each type (R54 to R58) -/

section
variable (h : Header) (c : Check) (raw : List Bool)

theorem decode_enc_indoor (d : IndoorData) :
    decode (.stream (enc (frameNibbles ++ summedNibbles (sensorTypeId .indoor) h (indoorNibbles d)
      ++ [c.low, c.high]) ++ raw)) = .ok (.indoor h d c) := by
  have hds : sensorTypeDs .indoor = 52 + 4 * (indoorNibbles d).length := rfl
  rw [decode_packetBits]
  simp [decodePacket, indoorDataOf_packetBits, checkOf_packetBits _ _ _ _ _ hds]

theorem decode_enc_rain (d : RainData) :
    decode (.stream (enc (frameNibbles ++ summedNibbles (sensorTypeId .rain) h (rainNibbles d)
      ++ [c.low, c.high]) ++ raw)) = .ok (.rain h d c) := by
  have hds : sensorTypeDs .rain = 52 + 4 * (rainNibbles d).length := rfl
  rw [decode_packetBits]
  simp [decodePacket, rainDataOf_packetBits, checkOf_packetBits _ _ _ _ _ hds]

theorem decode_enc_wind (d : WindData) :
    decode (.stream (enc (frameNibbles ++ summedNibbles (sensorTypeId .wind) h (windNibbles d)
      ++ [c.low, c.high]) ++ raw)) = .ok (.wind h d c) := by
  have hds : sensorTypeDs .wind = 52 + 4 * (windNibbles d).length := rfl
  rw [decode_packetBits]
  simp [decodePacket, windDataOf_packetBits, checkOf_packetBits _ _ _ _ _ hds]

theorem decode_enc_out2 (d : Out2Data) :
    decode (.stream (enc (frameNibbles ++ summedNibbles (sensorTypeId .out2) h (out2Nibbles d)
      ++ [c.low, c.high]) ++ raw)) = .ok (.out2 h d c) := by
  have hds : sensorTypeDs .out2 = 52 + 4 * (out2Nibbles d).length := rfl
  rw [decode_packetBits]
  simp [decodePacket, out2DataOf_packetBits, checkOf_packetBits _ _ _ _ _ hds]

theorem decode_enc_out1 (d : Out1Data) :
    decode (.stream (enc (frameNibbles ++ summedNibbles (sensorTypeId .out1) h (out1Nibbles d)
      ++ [c.low, c.high]) ++ raw)) = .ok (.out1 h d c) := by
  have hds : sensorTypeDs .out1 = 52 + 4 * (out1Nibbles d).length := rfl
  rw [decode_packetBits]
  simp [decodePacket, out1DataOf_packetBits, checkOf_packetBits _ _ _ _ _ hds]

end

/-- Settles O2: the id dispatches to its type, and each operand is read back at its own place. -/
theorem packetDecodesWhateverFollows : Obligations.PacketDecodesWhateverFollows :=
  ⟨fun h d c raw => decode_enc_indoor h c raw d, fun h d c raw => decode_enc_rain h c raw d,
    fun h d c raw => decode_enc_wind h c raw d, fun h d c raw => decode_enc_out2 h c raw d,
    fun h d c raw => decode_enc_out1 h c raw d⟩

/-! ### The whole encoder (R17, R18, R63, R140 to R145) -/

/-- A packet of a known type is its nibbles up to the checksum, with the postamble behind them. -/
theorem enc_packetNibbles (t : SensorType) (h : Header) (data : List Nibble) (c : Check) :
    enc (packetNibbles t h data c) = enc (frameNibbles ++ summedNibbles (sensorTypeId t) h data ++ [c.low, c.high])
      ++ enc [0x0#4, 0x0#4] := enc_append ..

theorem decodePacket_unkBits {id : BitVec 16} (hid : unknownId id = true) (tail : List Bool) :
    decodePacket (unkBits id tail) = .unk id tail := by
  have hnone : dispatch id = none := (dispatch_eq_none_iff id).mpr hid
  simp [decodePacket, hnone]

/-- The three bits of a CTRL write are taken apart again in the order of R17. -/
theorem decodeCtrlWrite_ctrlData (start verbose srst : Bool) :
    decodeCtrlWrite (ctrlData start verbose srst)
      = if srst then .srst else if start then .start verbose else .setVerbose verbose := by
  revert start verbose srst
  decide

theorem decodeRead_readF (n : BitVec 4) : decodeRead (0x1#4 ++ n) = .ok (.readF n) := by
  revert n
  decide

/-- Settles O1: row by row; the postamble of a packet of a known type is one of the tails O2 leaves free. -/
theorem decodeEncode : Obligations.DecodeEncode := by
  intro i hwf
  cases i with
  | preamble => decide
  | sync => decide
  | indoor h d c => rw [encode, enc_packetNibbles]; exact decode_enc_indoor ..
  | rain h d c => rw [encode, enc_packetNibbles]; exact decode_enc_rain ..
  | wind h d c => rw [encode, enc_packetNibbles]; exact decode_enc_wind ..
  | out2 h d c => rw [encode, enc_packetNibbles]; exact decode_enc_out2 ..
  | out1 h d c => rw [encode, enc_packetNibbles]; exact decode_enc_out1 ..
  | unk id tail =>
    have hdecode := decode_unkBits_append id tail []
    simpa [encode, deinterleave, decodePacket_unkBits hwf] using hdecode
  | load base bits len => rfl
  | start verbose => exact congrArg Except.ok (decodeCtrlWrite_ctrlData true verbose false)
  | setVerbose verbose => exact congrArg Except.ok (decodeCtrlWrite_ctrlData false verbose false)
  | srst => exact congrArg Except.ok (decodeCtrlWrite_ctrlData false false true)
  | readF n => exact decodeRead_readF n
  | readValid => rfl
  | readStatus => rfl
  | readCursor => rfl
  | readLen => rfl
  | readCtrl => rfl

/-! ### What a stream decodes to (R52, R62) -/

theorem decodePacket_wellFormed (l : List Bool) : (decodePacket l).wellFormed = true := by
  unfold decodePacket
  split
  · rfl
  · rfl
  · rfl
  · rfl
  · rfl
  · next hnone => exact (dispatch_eq_none_iff _).mp hnone

theorem decodeLogical_wellFormed (l : List Bool) : (decodeLogical l).wellFormed = true := by
  unfold decodeLogical
  split
  · rfl
  · split
    · rfl
    · exact decodePacket_wellFormed l

/-- Settles O4: an UNK row comes from an id that dispatch does not find. -/
theorem streamDecodesWellFormed : Obligations.StreamDecodesWellFormed := by
  intro raw i h
  refine ⟨decodeStream_packetSide h, ?_⟩
  rw [decode, decodeStream] at h
  split at h
  · cases h
    exact decodeLogical_wellFormed _
  · cases h

/-- Settles O3: each word is a closed code, which the decoder evaluates. -/
theorem wordsDecode : Obligations.WordsDecode := by
  refine ⟨?_, ?_, ?_, ?_, ?_, ?_, ?_, ?_⟩ <;> decide

end Sys2Proof
end

section
/-! PROOFS. What a packet with the right checksum leaves in the state: the registers of its type at the closed values of
the pipelines, one record, and the cursor advance. -/

namespace Sys2Proof.Machine

/-! ### Rounding away from a tie, in closed form (R106 to R110) -/

/-- Away from a tie `round_q(a, b)` is the floor of `a / b + 1/2`. -/
theorem roundNat_eq_div (ties : Config.RoundTies) {a b : Nat} (hb : 0 < b) (htie : 2 * (a % b) ≠ b) :
    roundNat ties a b = (2 * a + b) / (2 * b) := by
  have hdiv : b * (a / b) + a % b = a := Nat.div_add_mod a b
  have hmod : a % b < b := Nat.mod_lt a hb
  symm
  rcases roundNat_down_or_up ties a b with ⟨hround, hrem⟩ | ⟨hround, hrem⟩
  · have hlt : 2 * (a % b) < b := by omega
    have hnonneg : 0 ≤ a % b := Nat.zero_le _
    rw [hround]
    exact Nat.div_eq_of_lt_le (by linarith) (by linarith)
  · rw [hround]
    exact Nat.div_eq_of_lt_le (by linarith) (by linarith)

theorem roundQ_eq_div (ties : Config.RoundTies) {a b : Nat} (hb : 0 < b) (htie : 2 * (a % b) ≠ b) :
    roundQ ties a b = ((2 * a + b) / (2 * b) : Nat) := by
  rw [roundQ_natCast, roundNat_eq_div ties hb htie]

/-- An odd divisor has no tie (R109). -/
theorem mbar2inhg_eq_div (p : Nat) :
    mbar2inhg p = ((2 * (p * 1000000000000) + 338638866667) / (2 * 338638866667) : Nat) :=
  roundQ_eq_div tieRule (by norm_num) (by omega)

/-- An odd divisor has no tie (R110). -/
theorem mm2in_eq_div (r : Nat) : mm2in r = ((2 * (r * 500) + 127) / 254 : Nat) :=
  roundQ_eq_div tieRule (by norm_num) (by omega)

/-- An odd divisor has no tie (R110). -/
theorem mm2in10_eq_div (r10 : Nat) : mm2in10 r10 = ((2 * (r10 * 50) + 127) / 254 : Nat) :=
  roundQ_eq_div tieRule (by norm_num) (by omega)

/-- The least tie of R108 is at 2500, which three digits do not reach. -/
theorem ms2mph_no_tie {w10 : Nat} (hw : w10 ≤ 1665) : 2 * (w10 * 223694 % 10000) ≠ 10000 := by
  intro htie
  have hsplit := Nat.div_add_mod (w10 * 223694) 10000
  have hodd : w10 * 111847 = 2500 * (2 * (w10 * 223694 / 10000) + 1) := by linarith
  have hdvd : 2500 ∣ w10 := (by norm_num : Nat.Coprime 2500 111847).dvd_of_dvd_mul_right ⟨_, hodd⟩
  have hzero : w10 = 0 := Nat.eq_zero_of_dvd_of_lt hdvd (hw.trans_lt (by norm_num))
  simp [hzero] at htie

theorem ms2mph_eq_div {w10 : Nat} (hw : w10 ≤ 1665) :
    ms2mph w10 = ((2 * (w10 * 223694) + 10000) / 20000 : Nat) :=
  roundQ_eq_div tieRule (by norm_num) (ms2mph_no_tie hw)

theorem tempTenths_eq_mul (t0 t1 t2 sg : Nibble) : tempTenths t0 t1 t2 sg
    = (if sg = 0#4 then 1 else -1) * ((100 * t2.toNat + 10 * t1.toNat + t0.toNat : Nat) : Int) := by
  unfold tempTenths signed dec3
  split
  · rw [one_mul]
  · rw [neg_one_mul]

/-! ### The reading map after the commit of each fragment (R121 to R125) -/

theorem mergeFragment_indoorFragment (r : Readings) (d : IndoorData) :
    mergeFragment r (indoorFragment d) = { r with
      indoortempf := some (BitVec.ofInt 32 (18 * ((if d.sg = 0#4 then 1 else -1)
        * ((100 * d.t2.toNat + 10 * d.t1.toNat + d.t0.toNat : Nat) : Int)) + 3200))
      indoorhumidity := some (BitVec.ofNat 32 (10 * d.h1.toNat + d.h0.toNat))
      baromin := some (BitVec.ofNat 32
        ((2 * ((10 * d.b1.toNat + d.b0.toNat + 856) * 1000000000000) + 338638866667) / (2 * 338638866667))) } := by
  have hbaro : BitVec.ofInt 32 (mbar2inhg (bcd2 d.b0 d.b1 + 856)) = BitVec.ofNat 32
      ((2 * ((10 * d.b1.toNat + d.b0.toNat + 856) * 1000000000000) + 338638866667) / (2 * 338638866667)) := by
    rw [mbar2inhg_eq_div, BitVec.ofInt_natCast, bcd2]
  have hhum : BitVec.ofInt 32 (bcd2 d.h0 d.h1) = BitVec.ofNat 32 (10 * d.h1.toNat + d.h0.toNat) :=
    BitVec.ofInt_natCast ..
  rw [← tempTenths_eq_mul, ← hhum, ← hbaro]
  rfl

theorem mergeFragment_rainFragment (r : Readings) (d : RainData) :
    mergeFragment r (rainFragment d) = { r with
      dailyrainin := some (BitVec.ofNat 32
        ((2 * ((1000 * d.n4.toNat + 100 * d.n3.toNat + 10 * d.n2.toNat + d.n1.toNat + d.n0.toNat) * 500) + 127)
          / 254)) } := by
  rw [rainFragment, ← BitVec.ofInt_natCast, ← mm2in_eq_div, ← rainInches_eq]
  rfl

theorem mergeFragment_windFragment (r : Readings) (d : WindData) :
    mergeFragment r (windFragment d) = { r with
      winddir := some (BitVec.ofInt 32
        (roundQ Config.roundTies ((100 * d.w2.toNat + 10 * d.w1.toNat + d.w0.toNat : Nat) : Int) 10))
      windgustmph := some (BitVec.ofNat 32
        ((2 * ((100 * d.g2.toNat + 10 * d.g1.toNat + d.g0.toNat) * 223694) + 10000) / 20000))
      windspeedmph := some (BitVec.ofNat 32
        ((2 * ((100 * d.a2.toNat + 10 * d.a1.toNat + d.a0.toNat) * 223694) + 10000) / 20000)) } := by
  have hspeed (n0 n1 n2 : Nibble) : BitVec.ofInt 32 (ms2mph (dec3 n0 n1 n2)) = BitVec.ofNat 32
      ((2 * ((100 * n2.toNat + 10 * n1.toNat + n0.toNat) * 223694) + 10000) / 20000) := by
    rw [ms2mph_eq_div (dec3_le ..), BitVec.ofInt_natCast, dec3]
  rw [windFragment, wdir, wdirTenths_default, ← hspeed, ← hspeed]
  rfl

theorem mergeFragment_out2Fragment (r : Readings) (d : Out2Data) :
    mergeFragment r (out2Fragment d) = { r with
      temp2f := some (BitVec.ofInt 32 (18 * ((if d.sg = 0#4 then 1 else -1)
        * ((100 * d.t2.toNat + 10 * d.t1.toNat + d.t0.toNat : Nat) : Int)) + 3200)) } := by
  rw [out2Fragment, tempTenths_eq_mul]
  rfl

/-- At humidity 0 the fragment ends before the dew point. -/
theorem mergeFragment_out1Fragment (r : Readings) (d : Out1Data) :
    mergeFragment r (out1Fragment d) = { r with
      tempf := some (BitVec.ofInt 32 (18 * tempTenths d.t0 d.t1 d.t2 d.sg + 3200))
      humidity := some (BitVec.ofNat 32 (bcd2 d.h0 d.h1))
      dewptf := if 1 ≤ bcd2 d.h0 d.h1
        then some (BitVec.ofInt 32 (dewpt (tempTenths d.t0 d.t1 d.t2 d.sg) (bcd2 d.h0 d.h1))) else r.dewptf } := by
  unfold out1Fragment
  split
  · simp only [List.cons_append, List.nil_append, mergeFragment_cons, mergeFragment_nil, BitVec.ofInt_natCast]
    rfl
  · simp only [List.append_nil, mergeFragment_cons, mergeFragment_nil, BitVec.ofInt_natCast]
    rfl

theorem rainInfo_eq_div (d : RainData) : rainInfo d = .rain (BitVec.ofNat 32
    ((2 * ((100 * d.r2.toNat + 10 * d.r1.toNat + d.r0.toNat) * 50) + 127) / 254)) := by
  rw [rainInfo, mm2in10_eq_div, BitVec.ofInt_natCast]
  rfl

/-! ### A packet with the right checksum (R80, R90, R91) -/

theorem decodedOutcome_eq (s : State) (r : DiagRecord) (frag : Fragment) :
    decodedOutcome s r frag = { s with
      cursor := s.cursor + 1#32
      readings := mergeFragment s.readings frag
      diag := diagAfter s r } := by
  unfold decodedOutcome present diagAfter
  cases hv : s.verbose <;> simp [commit, advance, hv]

/-- The whole next state of a valid packet of a known type whose stream is long enough. -/
theorem packetAttempt_checksum {s : State} {t : SensorType} (ns : List Nibble) (h : Header) (frag : Fragment)
    (info : DiagInfo) (hL : sensorTypeDs t + 8 ≤ logicalLength s) :
    packetAttempt s t ns (checksum ns) h frag info = { s with
      cursor := s.cursor + 1#32
      readings := mergeFragment s.readings frag
      diag := diagAfter s (decodedRecord s (sensorTypeId t) (sensorTypeDs t) h info) } :=
  (packetAttempt_decoded h frag info hL rfl).trans (decodedOutcome_eq ..)

/-- Settles O23: the attempt commits the INDOOR fragment; the record is the literal one by computation. -/
theorem indoorDecoded : Obligations.IndoorDecoded := by
  intro h d s hL
  rw [← mergeFragment_indoorFragment]
  exact congrArg Host.Outcome.next (packetAttempt_checksum (t := .indoor) _ h _ (indoorInfo d) hL)

/-- Settles O24: the attempt commits the RAIN fragment, and the rain rate has no tie either. -/
theorem rainDecoded : Obligations.RainDecoded := by
  intro h d s hL
  rw [← mergeFragment_rainFragment, ← rainInfo_eq_div]
  exact congrArg Host.Outcome.next (packetAttempt_checksum (t := .rain) _ h _ _ hL)

/-- Settles O25: the attempt commits the WIND fragment; the direction keeps the tie rule. -/
theorem windDecoded : Obligations.WindDecoded := by
  intro h d s hL
  rw [← mergeFragment_windFragment]
  exact congrArg Host.Outcome.next (packetAttempt_checksum (t := .wind) _ h _ _ hL)

/-- Settles O26: the attempt commits the OUT2 fragment. -/
theorem out2Decoded : Obligations.Out2Decoded := by
  intro h d s hL
  rw [← mergeFragment_out2Fragment]
  exact congrArg Host.Outcome.next (packetAttempt_checksum (t := .out2) _ h _ (out2Info d) hL)

/-- Settles O27: the two humidities differ in what the fragment holds only. -/
theorem out1Decoded : Obligations.Out1Decoded := by
  intro h d s t10 hum hL ht10 hhum
  rw [← tempTenths_eq_mul] at ht10
  change hum = bcd2 d.h0 d.h1 at hhum
  subst ht10 hhum
  rw [← mergeFragment_out1Fragment]
  exact congrArg Host.Outcome.next (packetAttempt_checksum (t := .out1) _ h _ (out1Info d) hL)

end Sys2Proof.Machine
end

section
/-! PROOFS. The raw window of the preamble test (R66), and a window that lies in front of a frame (R72). -/

namespace Sys2Proof

/-! ### The window bit by bit (R66) -/

/-- The test compares 32 raw bits. -/
theorem preambleTest_iff (raw : List Bool) : preambleTest raw = true ↔ ∀ k < 32, raw[k]? = preambleBits[k]? := by
  have hlength : preambleBits.length = 32 := by decide
  rw [preambleTest, decide_eq_true_iff, List.ext_getElem?_iff]
  refine forall_congr' fun k => ?_
  by_cases hk : k < 32
  · simp [hk]
  · have hbehind : preambleBits[k]? = none := List.getElem?_eq_none (by omega)
    simp [hk, hbehind]

theorem preambleBits_inPhase : ∀ m < 16, preambleBits[2 * m]? = some true := by decide

theorem preambleBits_complement : ∀ m < 16, preambleBits[2 * m + 1]? = some false := by decide

theorem preambleBits_window : ∀ k < 32, preambleBits[k]? = some ((0x55555555#32).getLsbD k) := by decide

theorem preambleTest_iff_pairs (raw : List Bool) :
    preambleTest raw = true ↔
      (∀ m < 16, raw[2 * m]? = some true) ∧ (∀ m < 16, raw[2 * m + 1]? = some false) := by
  rw [preambleTest_iff]
  constructor
  · intro h
    exact ⟨fun m hm => (h _ (by omega)).trans (preambleBits_inPhase m hm),
      fun m hm => (h _ (by omega)).trans (preambleBits_complement m hm)⟩
  · rintro ⟨hphase, hcomplement⟩ k hk
    rcases Nat.even_or_odd' k with ⟨m, rfl | rfl⟩
    · exact (hphase m (by omega)).trans (preambleBits_inPhase m (by omega)).symm
    · exact (hcomplement m (by omega)).trans (preambleBits_complement m (by omega)).symm

/-- The test on the window word (R66). -/
theorem preambleTest_iff_word {raw : List Bool} {RW : BitVec 32} (hword : ∀ k < 32, raw[k]? = some (RW.getLsbD k)) :
    preambleTest raw = true ↔ RW = 0x55555555#32 := by
  rw [preambleTest_iff, BitVec.eq_of_getLsbD_eq_iff]
  refine forall₂_congr fun k hk => ?_
  rw [hword k hk, preambleBits_window k hk, Option.some_inj]

/-- Settles O5: the window is compared bit by bit; that its last bit exists is that all 32 do. -/
theorem preambleTestExact : Obligations.PreambleTestExact := by
  refine fun raw => ⟨?_, fun RW hword => preambleTest_iff_word hword, fun other hsame => ?_⟩
  · rw [preambleTest_iff_pairs, iff_and_self]
    rintro ⟨_, hcomplement⟩
    obtain ⟨hlast, _⟩ := List.getElem?_eq_some_iff.mp (hcomplement 15 (by decide))
    exact hlast
  · simp only [preambleTest, hsame]

/-- What passes the test is the preamble with something behind it. -/
theorem exists_append_of_preambleTest {raw : List Bool} (h : preambleTest raw = true) :
    ∃ rest, raw = preambleBits ++ rest :=
  ⟨raw.drop 32, by rw [← of_decide_eq_true h, List.take_append_drop]⟩

/-! ### Extra pairs in front of a frame (R72) -/

/-- Four `F` nibbles and the raw preamble are the same sixteen pairs. -/
theorem preambleBits_eq_enc : preambleBits = enc [0xF#4, 0xF#4, 0xF#4, 0xF#4] := by decide

/-- The logical stream of a window that passed the test begins with four `F` nibbles. -/
theorem deinterleave_preambleBits_append (raw : List Bool) :
    deinterleave (preambleBits ++ raw) = nibblesBits [0xF#4, 0xF#4, 0xF#4, 0xF#4] ++ deinterleave raw := by
  rw [preambleBits_eq_enc, enc, deinterleave_doubleBits_append]

/-- The nibble in the sync place is the first one behind the window. -/
theorem nib_sync_preambleBits_append (raw : List Bool) :
    nib (deinterleave (preambleBits ++ raw)) 16 = nib (deinterleave raw) 0 := by
  rw [deinterleave_preambleBits_append]
  exact nib_nibblesBits_behind [0xF#4, 0xF#4, 0xF#4, 0xF#4] _ 0

theorem flatten_replicate_pair (m : Nat) :
    (List.replicate m [true, false]).flatten = doubleBits (List.replicate m true) := by
  induction m with
  | zero => rfl
  | succ m ih => simp [List.replicate_succ, ih]

/-- Pairs in front of the preamble are the same stream as pairs behind it. -/
theorem pairs_append_frame (m : Nat) (rest : List Bool) :
    (List.replicate m [true, false]).flatten ++ enc frameNibbles ++ rest
      = preambleBits ++ (doubleBits (List.replicate m true ++ nibbleBits 0xA#4) ++ rest) := by
  have hcomm : (List.replicate m [true, false]).flatten ++ preambleBits
      = preambleBits ++ (List.replicate m [true, false]).flatten := by
    simp only [preambleBits, ← List.flatten_append, List.replicate_append_replicate, Nat.add_comm]
  have hsync : enc [0xA#4] = doubleBits (nibbleBits 0xA#4) := by decide
  rw [enc_frameNibbles, ← List.append_assoc, hcomm, flatten_replicate_pair, hsync, doubleBits_append]
  simp only [List.append_assoc]

/-- The first nibble of `m` one bits and a sync nibble `A`, whose own first bit is 0. -/
theorem nib_ones_append_sync (m : Nat) (hm : 1 ≤ m) (l : List Bool) :
    nib (List.replicate m true ++ nibbleBits 0xA#4 ++ l) 0
      = (if m = 1 then 0x5#4 else if m = 2 then 0xB#4 else if m = 3 then 0x7#4 else 0xF#4) := by
  match m, hm with
  | 1, _ => rfl
  | 2, _ => rfl
  | 3, _ => rfl
  | m + 4, _ =>
    rw [if_neg (by omega), if_neg (by omega), if_neg (by omega)]
    rfl

/-- A window in front of another nibble than `A` decodes to PREAMBLE. -/
theorem decode_preambleBits_append {raw : List Bool} (hbad : nib (deinterleave raw) 0 ≠ 0xA#4) :
    decode (.stream (preambleBits ++ raw)) = .ok .preamble := by
  rw [← nib_sync_preambleBits_append] at hbad
  rw [decode, decodeStream, if_pos (preambleTest_preambleBits_append raw), decodeLogical, if_pos (.inr hbad)]

/-- Settles O11: the window passes, and the nibble read as sync begins with the first extra pair. -/
theorem earlyRedetectionIsBadSync : Obligations.EarlyRedetectionIsBadSync := by
  intro m rest hm
  have hnib := nib_ones_append_sync m hm (deinterleave rest)
  rw [← deinterleave_doubleBits_append] at hnib
  rw [pairs_append_frame, nib_sync_preambleBits_append]
  refine ⟨decode_preambleBits_append ?_, hnib⟩
  rw [hnib]
  split_ifs <;> decide

end Sys2Proof
end

section
/-! PROOFS. The row a stream decodes to does what the stages of `DECODE` do on it: the operands of the row, put together
again, are the stream (R65, R80 to R86). -/

namespace Sys2Proof.Machine

/-! ### Bits and nibbles of a logical stream (R35, R48, R85, R100) -/

theorem nibbleBits_nibbleOfBits (b0 b1 b2 b3 : Bool) : nibbleBits (nibbleOfBits b0 b1 b2 b3) = [b0, b1, b2, b3] := by
  revert b0 b1 b2 b3
  decide

/-- A nibble read from the stream holds four of its bits. -/
theorem nibbleBits_nib {l : List Bool} {k : Nat} (h : k + 4 ≤ l.length) : nibbleBits (nib l k) = (l.drop k).take 4 := by
  rw [nib, nibbleBits_nibbleOfBits, List.getD_eq_getElem _ _ (by omega), List.getD_eq_getElem _ _ (by omega),
    List.getD_eq_getElem _ _ (by omega), List.getD_eq_getElem _ _ (by omega),
    List.drop_eq_getElem_cons (by omega), List.drop_eq_getElem_cons (by omega),
    List.drop_eq_getElem_cons (by omega), List.drop_eq_getElem_cons (by omega)]
  rfl

/-- The first `n` nibbles hold the first `4 * n` bits. -/
theorem nibblesBits_map_nib {l : List Bool} {n : Nat} (h : 4 * n ≤ l.length) :
    nibblesBits ((List.range n).map fun j => nib l (4 * j)) = l.take (4 * n) := by
  induction n with
  | zero => simp
  | succ n ih =>
    rw [List.range_succ, List.map_append, nibblesBits_append, ih (by omega), Nat.mul_succ, List.take_add,
      ← nibbleBits_nib (by omega)]
    simp

/-- A digit to the left of the last one. -/
theorem extractLsb'_append_nibble {w : Nat} (x : BitVec w) (n : Nibble) (k : Nat) :
    (x ++ n).extractLsb' (k + 4) 4 = x.extractLsb' k 4 :=
  (BitVec.extractLsb'_append_eq_of_le (Nat.le_add_left 4 k)).trans (by rw [Nat.add_sub_cancel])

/-- The digits of a joined id. -/
theorem idNibbles_append (a b c d : Nibble) : idNibbles (a ++ b ++ c ++ d) = [a, b, c, d] := by
  have ha : (a ++ b ++ c ++ d).extractLsb' 12 4 = a :=
    calc (a ++ b ++ c ++ d).extractLsb' 12 4
        = (a ++ b ++ c).extractLsb' 8 4 := extractLsb'_append_nibble ..
      _ = (a ++ b).extractLsb' 4 4 := extractLsb'_append_nibble ..
      _ = a := BitVec.extractLsb'_append_eq_left
  have hb : (a ++ b ++ c ++ d).extractLsb' 8 4 = b :=
    calc (a ++ b ++ c ++ d).extractLsb' 8 4
        = (a ++ b ++ c).extractLsb' 4 4 := extractLsb'_append_nibble ..
      _ = (a ++ b).extractLsb' 0 4 := extractLsb'_append_nibble ..
      _ = b := BitVec.extractLsb'_append_eq_right
  have hc : (a ++ b ++ c ++ d).extractLsb' 4 4 = c :=
    (extractLsb'_append_nibble ..).trans BitVec.extractLsb'_append_eq_right
  have hd : (a ++ b ++ c ++ d).extractLsb' 0 4 = d := BitVec.extractLsb'_append_eq_right
  rw [idNibbles, ha, hb, hc, hd]

/-- The digits of the id read from the stream are its nibbles 5 to 8. -/
theorem idNibbles_sensorId (l : List Bool) : idNibbles (sensorId l) = [nib l 20, nib l 24, nib l 28, nib l 32] :=
  idNibbles_append ..

/-- The checksummed range of a type with `n` data nibbles: id, header and data (R85). -/
theorem checksummedNibbles_eq_summed (l : List Bool) (n : Nat) :
    checksummedNibbles l (52 + 4 * n) = summedNibbles (sensorId l) (headerOf l) ((List.range n).map (dataNib l)) := by
  have hcount : (52 + 4 * n - 20) / 4 = 8 + n := by omega
  have hdata : ((fun j => nib l (20 + 4 * j)) ∘ fun j => 8 + j) = dataNib l := by
    funext j
    rw [dataNib, Function.comp_apply]
    congr 1
    omega
  rw [checksummedNibbles, hcount, List.range_add, List.map_append, List.map_map, hdata, summedNibbles,
    idNibbles_sensorId]
  rfl

/-! ### A framed stream with a whole id, put together again (R46, R48, R59) -/

/-- The stream begins with the preamble and sync nibbles (R46, R81). -/
def Framed (l : List Bool) : Prop := (∀ j < 4, nib l (4 * j) = 0xF#4) ∧ nib l 16 = 0xA#4

/-- A window that passed the preamble test, with the sync nibble behind it, is a frame. -/
theorem framed_of_preambleTest {raw : List Bool} (htest : preambleTest raw = true)
    (hsync : nib (deinterleave raw) 16 = 0xA#4) : Framed (deinterleave raw) := by
  refine ⟨fun j hj => ?_, hsync⟩
  obtain ⟨rest, rfl⟩ := exists_append_of_preambleTest htest
  rw [deinterleave_preambleBits_append]
  refine nib_nibblesBits_of_getElem? ?_ _
  exact List.getElem?_replicate_of_lt (n := 4) hj

/-- The operands of UNK lose nothing of the stream. -/
theorem unkBits_sensorId_drop {l : List Bool} (hframed : Framed l) (hlength : 36 ≤ l.length) :
    unkBits (sensorId l) (l.drop 36) = l := by
  obtain ⟨hF, hA⟩ := hframed
  have hnibbles : frameNibbles ++ idNibbles (sensorId l) = (List.range 9).map fun j => nib l (4 * j) := by
    have hnine : (List.range 9).map (fun j => nib l (4 * j)) = [nib l (4 * 0), nib l (4 * 1), nib l (4 * 2),
      nib l (4 * 3), nib l 16, nib l 20, nib l 24, nib l 28, nib l 32] := rfl
    rw [hnine, hF 0 (by decide), hF 1 (by decide), hF 2 (by decide), hF 3 (by decide), hA, idNibbles_sensorId]
    rfl
  rw [unkBits, hnibbles, nibblesBits_map_nib (by omega), List.take_append_drop]

/-! ### Rows and stages (R80 to R83) -/

/-- The row of a packet does what DISPATCH does. -/
theorem exec_decodePacket {l : List Bool} (s : State) (hframed : Framed l) (hlength : 36 ≤ l.length) :
    exec (decodePacket l) s = .next (dispatchStage s l) := by
  unfold decodePacket dispatchStage
  cases hid : dispatch (sensorId l) with
  | none => rw [exec, execUnk, unkBits_sensorId_drop hframed hlength]
  | some t =>
    have hsummed := checksummedNibbles_eq_summed l
    rw [(dispatch_eq_some_iff _ _).mp hid] at hsummed
    cases t with
    | indoor => rw [hsummed 11]; rfl
    | rain => rw [hsummed 8]; rfl
    | wind => rw [hsummed 9]; rfl
    | out2 => rw [hsummed 7]; rfl
    | out1 => rw [hsummed 7]; rfl

/-- The row of a window that passed the preamble test does what SYNC and the later stages do. -/
theorem exec_decodeLogical {s : State} (htest : preambleTest (rawStream s) = true) :
    exec (decodeLogical (logicalStream s)) s = .next (syncStage s (logicalStream s)) := by
  unfold decodeLogical
  split
  · rfl
  · next hframe =>
    obtain ⟨hlong, hsync⟩ := not_or.mp hframe
    rw [not_not] at hsync
    rw [logicalStream_length] at hlong
    rw [syncStage, if_neg hlong, if_pos hsync]
    split
    · rfl
    · next hid =>
      have hframed : Framed (logicalStream s) := framed_of_preambleTest htest hsync
      rw [exec_decodePacket s hframed (not_lt.mp hid), idStage, if_neg (by rwa [logicalStream_length] at hid)]

/-- A stream decodes when the window passes, to the row of its logical stream (R66, R68). -/
theorem decode_stream_eq_ok {raw : List Bool} {i : Instr} (h : decode (.stream raw) = .ok i) :
    preambleTest raw = true ∧ i = decodeLogical (deinterleave raw) := by
  rw [decode, decodeStream] at h
  split at h
  · next htest =>
    cases h
    exact ⟨htest, rfl⟩
  · cases h

/-- Settles O18: the row is the one of the logical stream, and its operands are the nibbles each stage reads. -/
theorem rowsRefineDecode : Obligations.RowsRefineDecode := by
  intro s i hdecode
  obtain ⟨htest, rfl⟩ := decode_stream_eq_ok hdecode
  exact exec_decodeLogical htest

end Sys2Proof.Machine
end

section
/-! PROOFS. The step of the block: the exit, the skip and the row it runs; what one cursor position adds to the map; and
the scan as a whole (R65 to R73). -/

namespace Sys2Proof.Machine

/-! ### One step (R65, R67, R70, R170) -/

theorem scanGoesOn_iff (s : State) : scanGoesOn s = true ↔ s.cursor.toNat + 32 < s.len.toNat := decide_eq_true_iff

theorem decode_stream_eq_error {raw : List Bool} (htest : preambleTest raw = false) :
    decode (.stream raw) = .error .noPreamble := by
  rw [decode, decodeStream, if_neg (Bool.eq_false_iff.mp htest)]

section
variable {s : State}

theorem scanStep_of_ok (hgo : s.cursor.toNat + 32 < s.len.toNat) {i : Instr}
    (hdecode : decode (.stream (rawStream s)) = .ok i) : scanStep s = exec i s := by
  rw [scanStep, if_pos ((scanGoesOn_iff s).mpr hgo), hdecode]

theorem scanStep_of_error (hgo : s.cursor.toNat + 32 < s.len.toNat) {e : DecodeError}
    (hdecode : decode (.stream (rawStream s)) = .error e) : scanStep s = .next (noPreambleOutcome s) := by
  rw [scanStep, if_pos ((scanGoesOn_iff s).mpr hgo), hdecode]

theorem scanStep_of_exit (hexit : s.len.toNat ≤ s.cursor.toNat + 32) : scanStep s = .next (finishScan s) :=
  if_neg fun hgo => absurd ((scanGoesOn_iff s).mp hgo) (by omega)

/-- A step of a busy block that the host leaves to it. -/
theorem step_quiet_busy (hquiet : HostQuiet s) (hb : s.phase = .busy) : step s = scanStep (takeSlot s) :=
  (step_quiet hquiet).trans (blockStep_of_busy hb)

end

/-- Settles O13: taking no slot, or the quiet one, leaves the stream as it is. -/
theorem stepRunsDecodedPacket : Obligations.StepRunsDecodedPacket := by
  intro s i hb hgo hdecode
  refine ⟨fun hport => ?_, fun rest hport => ?_⟩
  · have htake : takeSlot s = s := by rw [takeSlot, hport, List.tail_nil, ← hport]
    rw [step_quiet_busy (.inl hport) hb, htake, scanStep_of_ok hgo hdecode]
  · have htake : takeSlot s = { s with hostPort := rest } := by rw [takeSlot, hport, List.tail_cons]
    rw [step_quiet_busy (.inr ⟨rest, hport⟩) hb, htake]
    exact scanStep_of_ok (s := { s with hostPort := rest }) hgo hdecode

/-- Settles O15: the decoder rejects the window. -/
theorem stepNoPreamble : Obligations.StepNoPreamble := by
  intro s hb hquiet hgo htest
  rw [step_quiet_busy hquiet hb]
  exact scanStep_of_error (s := takeSlot s) hgo (decode_stream_eq_error htest)

/-- Settles O17: the loop test fails, or the phase is not BUSY. -/
theorem stepExitAndQuiescence : Obligations.StepExitAndQuiescence := by
  intro s hquiet
  refine ⟨fun hb hexit => ?_, fun hb => ?_⟩
  · rw [step_quiet_busy hquiet hb]
    exact scanStep_of_exit (s := takeSlot s) hexit
  · rw [step_quiet hquiet]
    exact blockStep_of_not_busy (s := takeSlot s) hb

/-! ### What one position adds to the map (R71, R90) -/

/-- The map after an attempt on a known type: its fragment is merged when the packet validates. -/
theorem packetAttempt_readings (s : State) (t : SensorType) (ns : List Nibble) (ocs : Check) (h : Header)
    (frag : Fragment) (info : DiagInfo) :
    (packetAttempt s t ns ocs h frag info).readings
      = mergeFragment s.readings (if logicalLength s < sensorTypeDs t + 8 ∨ ocs ≠ checksum ns then [] else frag) := by
  by_cases hL : logicalLength s < sensorTypeDs t + 8
  · rw [packetAttempt_truncated ns ocs h frag info hL, if_pos (.inl hL)]
    simp
  · by_cases hc : ocs = checksum ns
    · rw [packetAttempt_decoded h frag info (not_lt.mp hL) hc, if_neg (by simp [hL, hc])]
      simp
    · rw [packetAttempt_mismatch h frag info (not_lt.mp hL) hc, if_pos (.inr hc)]
      simp

/-- A framed packet with an id is no scanner row. -/
theorem decodePacket_not_scanner (l : List Bool) : decodePacket l ≠ .preamble ∧ decodePacket l ≠ .sync := by
  unfold decodePacket
  split <;> simp

/-- The decoder gives PREAMBLE where SYNC raises (R81). -/
theorem decodeLogical_eq_preamble {l : List Bool} (h : decodeLogical l = .preamble) :
    l.length < 20 ∨ nib l 16 ≠ 0xA#4 := by
  unfold decodeLogical at h
  split at h
  · assumption
  · split at h
    · cases h
    · exact absurd h (decodePacket_not_scanner l).1

/-- The decoder gives SYNC where IDPARSE raises (R82). -/
theorem decodeLogical_eq_sync {l : List Bool} (h : decodeLogical l = .sync) : l.length < 36 := by
  unfold decodeLogical at h
  split at h
  · cases h
  · split at h
    · assumption
    · exact absurd h (decodePacket_not_scanner l).2

/-- On a short stream, or one with another nibble in the sync place, SYNC raises. -/
theorem syncStage_raises {s : State} {l : List Bool} (h : logicalLength s < 20 ∨ nib l 16 ≠ 0xA#4) :
    ∃ r, syncStage s l = raiseOutcome s r := by
  by_cases hL : logicalLength s < 20
  · exact ⟨_, if_pos hL⟩
  · exact ⟨_, (if_neg hL).trans (if_neg (h.resolve_left hL))⟩

/-- The row of a stream merges what its position contributes. -/
theorem exec_decoded_readings {s t : State} {i : Instr} (hdecode : decode (.stream (rawStream s)) = .ok i)
    (hexec : exec i s = .next t) : t.readings = mergeFragment s.readings (contribution s) := by
  have hside := decodeStream_packetSide hdecode
  have hrow : i = decodeLogical (logicalStream s) := (decode_stream_eq_ok hdecode).2
  simp only [contribution, hdecode]
  cases i with
  | preamble =>
    have hbad := decodeLogical_eq_preamble hrow.symm
    rw [logicalStream_length] at hbad
    obtain ⟨r, hraise⟩ := syncStage_raises hbad
    cases hexec
    simp [hraise]
  | sync =>
    have hshort := decodeLogical_eq_sync hrow.symm
    rw [logicalStream_length] at hshort
    cases hexec
    simp [idStage, hshort]
  | indoor h d c => cases hexec; exact packetAttempt_readings ..
  | rain h d c => cases hexec; exact packetAttempt_readings ..
  | wind h d c => cases hexec; exact packetAttempt_readings ..
  | out2 h d c => cases hexec; exact packetAttempt_readings ..
  | out1 h d c => cases hexec; exact packetAttempt_readings ..
  | unk id tail =>
    obtain ⟨r, hraise⟩ := unknownAttempt_raises s id (unkBits id tail)
    cases hexec
    simp [hraise]
  | _ => cases hside

/-! ### A step below the loop bound (R69, R71, R73) -/

/-- `t` is what the scan step at `s` leaves: the map with the contribution of this position, and the next cursor. -/
structure ScanAdvance (s t : State) : Prop where
  phase : t.phase = s.phase
  cursor : t.cursor = s.cursor + 1#32
  readings : t.readings = mergeFragment s.readings (contribution s)
  len : t.len = s.len
  bitbuf : t.bitbuf = s.bitbuf
  hostPort : t.hostPort = s.hostPort

theorem scanStep_advances {s : State} (hgo : s.cursor.toNat + 32 < s.len.toNat) :
    ∃ t, scanStep s = .next t ∧ ScanAdvance s t := by
  cases hdecode : decode (.stream (rawStream s)) with
  | ok i =>
    obtain ⟨r, frag, _, _, hend⟩ := exec_packetSide_reports i s (decodeStream_packetSide hdecode)
    have hexec := hend s (.refl s)
    refine ⟨_, (scanStep_of_ok hgo hdecode).trans hexec, ?_⟩
    exact { phase := by simp, cursor := by simp, readings := exec_decoded_readings hdecode hexec, len := by simp,
            bitbuf := by simp, hostPort := by simp }
  | error e =>
    have hnothing : contribution s = [] := by simp only [contribution, hdecode]
    refine ⟨_, scanStep_of_error hgo hdecode, ?_⟩
    exact { phase := rfl, cursor := rfl, readings := by rw [hnothing]; rfl, len := rfl, bitbuf := rfl,
            hostPort := rfl }

/-- Settles O16: the scan step below the bound, the slot taken. -/
theorem everyScanStepAdvances : Obligations.EveryScanStepAdvances := by
  intro s hb hquiet hgo
  obtain ⟨t, hscan, hadvance⟩ := scanStep_advances (s := takeSlot s) hgo
  exact ⟨t, (step_quiet_busy hquiet hb).trans hscan, hadvance.cursor, hadvance.phase.trans hb, hadvance.len,
    hadvance.hostPort⟩

/-! ### The scan as a whole (R70, R71, R180) -/

/-- One more step at the end of a run. -/
theorem run_succ_of_run {s t u : State} {n : Nat} (hrun : Host.Core.run core n s = .next t) (hstep : step t = .next u) :
    Host.Core.run core (n + 1) s = .next u := by
  induction n generalizing s with
  | zero =>
    cases hrun
    exact run_succ_of_next hstep 0
  | succ n ih =>
    cases hfirst : step s with
    | next v =>
      rw [run_succ_of_next hfirst] at hrun ⊢
      exact ih hrun
    | fault r => cases r
    | refused r =>
      simp only [Host.Core.run, show core.step s = .refused r from hfirst] at hrun
      cases hrun

/-- The contribution of a position depends on the stream there only. -/
theorem contribution_congr {s t : State} (h : SameStream s t) : contribution t = contribution s := by
  simp only [contribution, h.rawStream_eq, h.logicalLength_eq]

/-- `t` is the scan of `s` at position `k`, the first `k` positions folded into the map. -/
structure ScannedTo (s : State) (k : Nat) (t : State) : Prop where
  phase : t.phase = .busy
  cursor : t.cursor = BitVec.ofNat 32 k
  readings : t.readings = foldScan s k
  len : t.len = s.len
  bitbuf : t.bitbuf = s.bitbuf
  hostPort : t.hostPort = []

section
variable {s t : State} {k : Nat}

theorem ScannedTo.cursor_toNat (h : ScannedTo s k t) (hk : k ≤ s.len.toNat) : t.cursor.toNat = k := by
  rw [h.cursor, BitVec.toNat_ofNat, Nat.mod_eq_of_lt (by omega)]

theorem ScannedTo.step_eq (h : ScannedTo s k t) : step t = scanStep (takeSlot t) :=
  step_quiet_busy (.inl h.hostPort) h.phase

/-- Below the loop bound a step goes on to the next position. -/
theorem ScannedTo.step_advances (h : ScannedTo s k t) (hgo : k + 32 < s.len.toNat) :
    ∃ u, step t = .next u ∧ ScannedTo s (k + 1) u := by
  have hbound : (takeSlot t).cursor.toNat + 32 < (takeSlot t).len.toNat := by
    rw [takeSlot_cursor, takeSlot_len, h.cursor_toNat (by omega), h.len]
    exact hgo
  have hsame : SameStream (atCursor s k) (takeSlot t) := ⟨h.len, h.cursor, h.bitbuf⟩
  obtain ⟨u, hscan, hadvance⟩ := scanStep_advances hbound
  refine ⟨u, h.step_eq.trans hscan, ?_⟩
  exact {
    phase := hadvance.phase.trans h.phase
    cursor := by rw [hadvance.cursor, takeSlot_cursor, h.cursor, BitVec.ofNat_add]
    readings := by rw [hadvance.readings, takeSlot_readings, h.readings, contribution_congr hsame, foldScan]
    len := hadvance.len.trans h.len
    bitbuf := hadvance.bitbuf.trans h.bitbuf
    hostPort := by rw [hadvance.hostPort, takeSlot_hostPort, h.hostPort, List.tail_nil] }

/-- At the loop bound the scan ends. -/
theorem ScannedTo.step_finishes (h : ScannedTo s k t) (hk : k ≤ s.len.toNat) (hexit : s.len.toNat ≤ k + 32) :
    step t = .next (finishScan (takeSlot t)) := by
  refine h.step_eq.trans (scanStep_of_exit ?_)
  rw [takeSlot_cursor, takeSlot_len, h.cursor_toNat hk, h.len]
  exact hexit

end

/-- A run from the start of a scan, by induction on the positions. -/
theorem run_scannedTo {s : State} (hstart : ScannedTo s 0 s) {k : Nat} (hk : k ≤ s.len.toNat - 32) :
    ∃ t, Host.Core.run core k s = .next t ∧ ScannedTo s k t := by
  induction k with
  | zero => exact ⟨s, rfl, hstart⟩
  | succ k ih =>
    obtain ⟨t, hrun, hscanned⟩ := ih (by omega)
    obtain ⟨u, hstep, hnext⟩ := hscanned.step_advances (by omega)
    exact ⟨u, run_succ_of_run hrun hstep, hnext⟩

/-- Settles O52: the run to each position, and the exit step at the last one. -/
theorem scanRunsToDone : Obligations.ScanRunsToDone := by
  intro s hb hcursor hport hreadings
  have hstart : ScannedTo s 0 s := ⟨hb, hcursor, hreadings, rfl, rfl, hport⟩
  constructor
  · intro k hk
    obtain ⟨t, hrun, hscanned⟩ := run_scannedTo hstart hk
    exact ⟨t, hrun, hscanned.phase, hscanned.cursor, hscanned.readings, hscanned.len, hscanned.bitbuf⟩
  · obtain ⟨t, hrun, hscanned⟩ := run_scannedTo hstart le_rfl
    have hstep := hscanned.step_finishes (by omega) (by omega)
    exact ⟨_, run_succ_of_run hrun hstep, rfl, hscanned.cursor, hscanned.readings, hscanned.len, hscanned.bitbuf⟩

end Sys2Proof.Machine
end

section
/-! PROOFS. What each stage of `DECODE` does when it raises, and when it hands over (R80 to R86); a packet that raises
leaves a record and the next cursor only (R84 to R91, R157). -/

namespace Sys2Proof.Machine

/-! ### A failing outcome (R91, R157, R158) -/

theorem raiseOutcome_eq (s : State) (r : DiagRecord) :
    raiseOutcome s r = { s with cursor := s.cursor + 1#32, diag := diagAfter s r } :=
  (raiseOutcome_eq_decodedOutcome s r).trans (decodedOutcome_eq s r [])

/-! ### The stages SYNC and IDPARSE (R81, R82) -/

section
variable {s : State} {l : List Bool}

theorem syncStage_truncated (hshort : logicalLength s < 20) :
    syncStage s l = raiseOutcome s (truncatedRecord s .sync) := if_pos hshort

theorem syncStage_badSync (hL : 20 ≤ logicalLength s) (hbad : nib l 16 ≠ 0xA#4) :
    syncStage s l = raiseOutcome s (badSyncRecord s (nib l 16)) :=
  (if_neg (not_lt.mpr hL)).trans (if_neg hbad)

theorem syncStage_eq_idStage (hL : 20 ≤ logicalLength s) (hsync : nib l 16 = 0xA#4) : syncStage s l = idStage s l :=
  (if_neg (not_lt.mpr hL)).trans (if_pos hsync)

theorem idStage_truncated (hshort : logicalLength s < 36) :
    idStage s l = raiseOutcome s (truncatedRecord s .id) := if_pos hshort

theorem idStage_eq_dispatchStage (hL : 36 ≤ logicalLength s) : idStage s l = dispatchStage s l :=
  if_neg (not_lt.mpr hL)

end

/-- Settles O19: SYNC finds too few bits. -/
theorem preambleTruncated : Obligations.PreambleTruncated := fun s hshort =>
  congrArg Host.Outcome.next ((syncStage_truncated hshort).trans (raiseOutcome_eq s _))

/-- Settles O20: SYNC finds another nibble. -/
theorem preambleBadSync : Obligations.PreambleBadSync := fun s hL hbad =>
  congrArg Host.Outcome.next ((syncStage_badSync hL hbad).trans (raiseOutcome_eq s _))

/-- Settles O21: IDPARSE finds too few bits. -/
theorem syncTruncated : Obligations.SyncTruncated := fun s hshort =>
  congrArg Host.Outcome.next ((idStage_truncated hshort).trans (raiseOutcome_eq s _))

/-- Settles O22: a stage that does not raise is the next one, and the packet's row is DISPATCH on a framed stream. -/
theorem stagesContinue : Obligations.StagesContinue := by
  intro s
  refine ⟨fun hL hsync => ?_, fun hL htest hsync => ?_⟩
  · exact congrArg Host.Outcome.next (syncStage_eq_idStage hL hsync)
  · have hframed : Framed (logicalStream s) := framed_of_preambleTest htest hsync
    rw [exec_decodePacket s hframed (by rwa [logicalStream_length])]
    exact congrArg Host.Outcome.next (idStage_eq_dispatchStage hL)

/-! ### A packet of a known type that raises (R84, R86, R157) -/

section
variable {s : State} {t : SensorType}

/-- The whole next state where the checksum would end past the stream. -/
theorem packetAttempt_of_short (ns : List Nibble) (c : Check) (h : Header) (frag : Fragment) (info : DiagInfo)
    (hshort : logicalLength s < sensorTypeDs t + 8) :
    packetAttempt s t ns c h frag info = { s with
      cursor := s.cursor + 1#32
      diag := diagAfter s (truncatedBodyRecord s (sensorTypeId t) (sensorTypeDs t)) } :=
  (packetAttempt_truncated ns c h frag info hshort).trans (raiseOutcome_eq ..)

/-- The whole next state of a whole packet with a wrong checksum. -/
theorem packetAttempt_of_wrong_checksum {ns : List Nibble} {c k : Check} (h : Header) (frag : Fragment)
    (info : DiagInfo) (hk : k = checksum ns) (hL : sensorTypeDs t + 8 ≤ logicalLength s) (hc : c ≠ k) :
    packetAttempt s t ns c h frag info = { s with
      cursor := s.cursor + 1#32
      diag := diagAfter s (mismatchRecord s (sensorTypeId t) (sensorTypeDs t) k c) } := by
  subst hk
  exact (packetAttempt_mismatch h frag info hL hc).trans (raiseOutcome_eq ..)

end

/-- Settles O28: BOUNDS raises, type by type. -/
theorem knownPacketTruncated : Obligations.KnownPacketTruncated := fun _ h c =>
  ⟨fun _ hL => congrArg Host.Outcome.next (packetAttempt_of_short (t := .indoor) _ c h _ _ hL),
    fun _ hL => congrArg Host.Outcome.next (packetAttempt_of_short (t := .rain) _ c h _ _ hL),
    fun _ hL => congrArg Host.Outcome.next (packetAttempt_of_short (t := .wind) _ c h _ _ hL),
    fun _ hL => congrArg Host.Outcome.next (packetAttempt_of_short (t := .out2) _ c h _ _ hL),
    fun _ hL => congrArg Host.Outcome.next (packetAttempt_of_short (t := .out1) _ c h _ _ hL)⟩

/-- Settles O29: CSCOMPARE raises, type by type. -/
theorem knownPacketMismatch : Obligations.KnownPacketMismatch := fun _ h _ =>
  ⟨fun _ _ hk hL hc =>
      congrArg Host.Outcome.next (packetAttempt_of_wrong_checksum (t := .indoor) h _ _ hk hL hc),
    fun _ _ hk hL hc =>
      congrArg Host.Outcome.next (packetAttempt_of_wrong_checksum (t := .rain) h _ _ hk hL hc),
    fun _ _ hk hL hc =>
      congrArg Host.Outcome.next (packetAttempt_of_wrong_checksum (t := .wind) h _ _ hk hL hc),
    fun _ _ hk hL hc =>
      congrArg Host.Outcome.next (packetAttempt_of_wrong_checksum (t := .out2) h _ _ hk hL hc),
    fun _ _ hk hL hc =>
      congrArg Host.Outcome.next (packetAttempt_of_wrong_checksum (t := .out1) h _ _ hk hL hc)⟩

/-! ### An unknown packet (R83, R85, R88, R126) -/

/-- The summed range of an unknown packet, which ends 16 bits before the stream does. -/
theorem checksummedNibbles_unknown (l : List Bool) (L : Nat) :
    checksummedNibbles l (L - 16) = (List.range ((L - 36) / 4)).map fun j => nib l (20 + 4 * j) := by
  rw [checksummedNibbles, Nat.sub_sub]

/-- The consumed length of an unknown packet is the whole raw stream. -/
theorem consumedLength_unknown {L : Nat} (hL : 16 ≤ L) : consumedLength (L - 16) = BitVec.ofNat 32 (2 * L) := by
  rw [consumedLength, Nat.sub_add_cancel hL, Nat.mul_comm]

section
variable {s : State} {id : BitVec 16} {l : List Bool} {k : Check}
  (hL : 16 ≤ logicalLength s) (hk : k = checksum (checksummedNibbles l (logicalLength s - 16)))
include hL hk

/-- BOUNDS cannot raise, so the comparison decides. -/
theorem unknownAttempt_of_checksum (hc : checkOf l (logicalLength s - 16) = k) :
    unknownAttempt s id l = raiseOutcome s (unknownRecord s id (logicalLength s - 16)) := by
  rw [unknownAttempt, if_neg (by omega), if_pos (hc.trans hk)]

theorem unknownAttempt_of_wrong_checksum (hc : checkOf l (logicalLength s - 16) ≠ k) :
    unknownAttempt s id l = raiseOutcome s
      (mismatchRecord s id (logicalLength s - 16) k (checkOf l (logicalLength s - 16))) := by
  subst hk
  rw [unknownAttempt, if_neg (by omega), if_neg hc]

end

/-- Settles O30: both outcomes of the comparison raise. -/
theorem unknownPacketOutcome : Obligations.UnknownPacketOutcome := by
  intro s id tail l k hL hl hk
  subst hl
  rw [← checksummedNibbles_unknown] at hk
  refine ⟨fun hc => ?_, fun hc => ?_⟩
  · rw [← consumedLength_unknown hL]
    exact congrArg Host.Outcome.next ((unknownAttempt_of_checksum hL hk hc).trans (raiseOutcome_eq s _))
  · exact congrArg Host.Outcome.next ((unknownAttempt_of_wrong_checksum hL hk hc).trans (raiseOutcome_eq s _))

end Sys2Proof.Machine
end

section
/-! PROOFS. What the checksum holds of a sum, and what it detects (R85, R86). -/

namespace Sys2Proof.Machine

/-! ### The fold and its two nibbles (R85) -/

theorem nibbleSum_cons (n : Nibble) (ns : List Nibble) : nibbleSum (n :: ns) = n.toNat + nibbleSum ns := rfl

theorem nibbleSum_append (ns ms : List Nibble) : nibbleSum (ns ++ ms) = nibbleSum ns + nibbleSum ms := by
  simp [nibbleSum]

theorem nibbleSum_le (ns : List Nibble) : nibbleSum ns ≤ 15 * ns.length := by
  induction ns with
  | nil => exact le_rfl
  | cons n ns ih =>
    have hn : n.toNat < 16 := n.isLt
    rw [nibbleSum_cons, List.length_cons]
    omega

theorem checksum_low_toNat (ns : List Nibble) : (checksum ns).low.toNat = foldSum (nibbleSum ns) % 16 :=
  BitVec.toNat_ofNat ..

theorem checksum_high_toNat (ns : List Nibble) : (checksum ns).high.toNat = foldSum (nibbleSum ns) / 16 % 16 :=
  BitVec.toNat_ofNat ..

/-- Up to 285, the most that the 19 nibbles of a known type sum to, the carry is 0 or 1 (R85). -/
theorem foldSum_eq_ite {sum : Nat} (hsum : sum ≤ 285) : foldSum sum = if sum ≤ 255 then sum else sum - 255 := by
  unfold foldSum
  split <;> omega

/-- The carry comes back with the weight it left with: the fold keeps the sum modulo 255. -/
theorem foldSum_mod_255 (sum : Nat) : foldSum sum % 255 = sum % 255 := by
  unfold foldSum
  omega

/-- The two nibbles hold the whole fold of a known type's range. -/
theorem checksum_value {ns : List Nibble} (hlength : ns.length ≤ 19) :
    16 * (checksum ns).high.toNat + (checksum ns).low.toNat = foldSum (nibbleSum ns) := by
  have hsum : nibbleSum ns ≤ 285 := (nibbleSum_le ns).trans (by omega)
  have hfold : foldSum (nibbleSum ns) < 256 := by
    rw [foldSum_eq_ite hsum]
    split <;> omega
  rw [checksum_high_toNat, checksum_low_toNat]
  omega

/-- Settles O59: the nibbles of the fold, which for a known type has one carry at most. -/
theorem checksumFold : Obligations.ChecksumFold := by
  intro ns
  refine ⟨checksum_low_toNat ns, checksum_high_toNat ns, fun hlength => ?_⟩
  rw [checksum_value hlength]
  exact foldSum_eq_ite ((nibbleSum_le ns).trans (by omega))

/-! ### A single-bit flip (R86) -/

/-- Flipping bit `k` of a nibble moves its value by `2^k`, up or down. -/
theorem toNat_xor_twoPow : ∀ (n : Nibble) (k : Nat), k < 4 →
    (n ^^^ BitVec.twoPow 4 k).toNat = n.toNat + 2 ^ k ∨ n.toNat = (n ^^^ BitVec.twoPow 4 k).toNat + 2 ^ k := by
  decide

/-- Equal checksums of two ranges of a known type's length mean equal sums modulo 255. -/
theorem nibbleSum_mod_255_of_checksum_eq {ns ms : List Nibble} (hns : ns.length ≤ 19) (hms : ms.length ≤ 19)
    (heq : checksum ns = checksum ms) : nibbleSum ns % 255 = nibbleSum ms % 255 := by
  rw [← foldSum_mod_255 (nibbleSum ns), ← foldSum_mod_255 (nibbleSum ms), ← checksum_value hns,
    ← checksum_value hms, heq]

/-- Settles O60: the flip moves the sum by 1, 2, 4 or 8, and none of them is a multiple of 255. -/
theorem singleBitFlipDetected : Obligations.SingleBitFlipDetected := by
  intro pre post n k hk hlength heq
  have hsum (m : Nibble) : nibbleSum (pre ++ [m] ++ post) = nibbleSum pre + m.toNat + nibbleSum post := by
    rw [nibbleSum_append, nibbleSum_append]
    rfl
  have hbound (m : Nibble) : (pre ++ [m] ++ post).length ≤ 19 := by simp; omega
  have hmod := nibbleSum_mod_255_of_checksum_eq (hbound _) (hbound _) heq
  rw [hsum, hsum] at hmod
  have hpow : 0 < 2 ^ k ∧ 2 ^ k < 2 ^ 4 := ⟨Nat.two_pow_pos k, Nat.pow_lt_pow_right (by decide) hk⟩
  rcases toNat_xor_twoPow n k hk with hup | hdown <;> omega

end Sys2Proof.Machine
end

section
/-! PROOFS. The tie rules of `round_q` and the pipelines that never meet a tie (R106, R108 to R110, R112), and the two
temperature conversions with a stated range: C2F and the window of the dew point (R105, R107, R113). -/

namespace Sys2Proof.Machine

/-! ### `round_q` at a tie and away from it (R106) -/

/-- A tie: the numerator is an odd number of half divisors. -/
theorem two_mul_mod_eq_iff_tie {a b : Nat} : 2 * (a % b) = b ↔ 2 * a = (2 * (a / b) + 1) * b := by
  have hdiv : b * (a / b) + a % b = a := Nat.div_add_mod a b
  constructor <;> intro h <;> linarith

/-- The quotient at a tie between `q` and `q + 1`. -/
theorem div_eq_of_tie {a b q : Nat} (hb : 0 < b) (htie : 2 * a = (2 * q + 1) * b) : a / b = q :=
  Nat.div_eq_of_lt_le (by linarith) (by linarith)

theorem roundNat_halfToEven_of_tie {a b q : Nat} (hb : 0 < b) (htie : 2 * a = (2 * q + 1) * b) :
    roundNat .halfToEven a b = if q % 2 = 0 then q else q + 1 := by
  have hquot : a / b = q := div_eq_of_tie hb htie
  have hrem : 2 * (a % b) = b := two_mul_mod_eq_iff_tie.mpr (by rw [hquot, htie])
  simp [roundNat, hrem, hquot]

/-- Half away from zero is the floor of `a / b + 1/2`, at a tie too. -/
theorem roundNat_halfAwayFromZero_eq_div (a : Nat) {b : Nat} (hb : 0 < b) :
    roundNat .halfAwayFromZero a b = (2 * a + b) / (2 * b) := by
  by_cases hrem : 2 * (a % b) = b
  · have htie := two_mul_mod_eq_iff_tie.mp hrem
    calc roundNat .halfAwayFromZero a b = a / b + 1 := by simp [roundNat, hrem]
      _ = (2 * a + b) / (2 * b) := (Nat.div_eq_of_lt_le (by linarith) (by linarith)).symm
  · exact roundNat_eq_div _ hb hrem

/-- Away from a tie the tie rule does not matter (R106). -/
theorem roundQ_no_tie (t u : Config.RoundTies) {a b : Nat} (h : 2 * (a % b) ≠ b) : roundQ t a b = roundQ u a b := by
  rw [roundQ_natCast, roundQ_natCast, roundNat_no_tie t u h]

/-- What R106 asks of half to even at a tie between `q` and `q + 1`: the even one of them. -/
def IsEvenNeighbour (q v : Int) : Prop := v % 2 = 0 ∧ (v = q ∨ v = q + 1)

/-- The mirror image of the neighbours `-q - 1` and `-q` is `q` and `q + 1`. -/
theorem IsEvenNeighbour.neg {q v : Int} (h : IsEvenNeighbour (-q - 1) v) : IsEvenNeighbour q (-v) := by
  unfold IsEvenNeighbour at *
  omega

theorem roundQ_halfToEven_of_tie_of_nonneg {a q : Int} {b : Nat} (hb : 0 < b) (ha : 0 ≤ a)
    (htie : 2 * a = (2 * q + 1) * b) : IsEvenNeighbour q (roundQ .halfToEven a b) := by
  have hq : 0 ≤ q := by
    have hprod : 0 ≤ (2 * q + 1) * (b : Int) := by linarith
    have := nonneg_of_mul_nonneg_left hprod (by exact_mod_cast hb)
    omega
  lift a to Nat using ha
  lift q to Nat using hq
  rw [roundQ_natCast, roundNat_halfToEven_of_tie hb (by exact_mod_cast htie)]
  unfold IsEvenNeighbour
  split <;> omega

theorem roundQ_halfToEven_of_tie {a q : Int} {b : Nat} (hb : 0 < b) (htie : 2 * a = (2 * q + 1) * b) :
    IsEvenNeighbour q (roundQ .halfToEven a b) := by
  rcases le_or_gt 0 a with ha | ha
  · exact roundQ_halfToEven_of_tie_of_nonneg hb ha htie
  · rw [roundQ_of_neg _ ha]
    exact (roundQ_halfToEven_of_tie_of_nonneg hb (by omega) (by linarith)).neg

theorem roundQ_eq_of_nonneg_of_no_tie (t u : Config.RoundTies) {a : Int} {b : Nat} (ha : 0 ≤ a)
    (hno : ∀ q : Int, 2 * a ≠ (2 * q + 1) * b) : roundQ t a b = roundQ u a b := by
  lift a to Nat using ha
  exact roundQ_no_tie t u fun hrem => hno (a / b : Nat) (by exact_mod_cast two_mul_mod_eq_iff_tie.mp hrem)

/-- No rule is consulted for a numerator of either sign that is no odd number of half divisors. -/
theorem roundQ_eq_of_no_tie (t u : Config.RoundTies) {a : Int} {b : Nat}
    (hno : ∀ q : Int, 2 * a ≠ (2 * q + 1) * b) : roundQ t a b = roundQ u a b := by
  rcases le_or_gt 0 a with ha | ha
  · exact roundQ_eq_of_nonneg_of_no_tie t u ha hno
  · have hmirror : ∀ q : Int, 2 * -a ≠ (2 * q + 1) * b := fun q htie => hno (-q - 1) (by linarith)
    rw [roundQ_of_neg t ha, roundQ_of_neg u ha, roundQ_eq_of_nonneg_of_no_tie t u (by omega) hmirror]

/-- Settles O54: the closed form of half away from zero, the mirror image, the even neighbour at a tie, and no
difference away from one. -/
theorem roundRule : Obligations.RoundRule := by
  intro b hb
  refine ⟨fun a ha => ?_, fun t a ha => roundQ_of_neg t ha b, fun a q => roundQ_halfToEven_of_tie hb,
    fun a => roundQ_eq_of_no_tie _ _⟩
  lift a to Nat using ha
  rw [roundQ_natCast, roundNat_halfAwayFromZero_eq_div a hb]
  push_cast
  rfl

/-- Settles O56: the divisors of the pressure and of the rain are odd, and the wind speed stops short of its first
tie. -/
theorem onlyWindDirectionCanTie : Obligations.OnlyWindDirectionCanTie := by
  intro t u
  exact ⟨fun w hw => roundQ_no_tie t u (ms2mph_no_tie hw), fun p _ _ => roundQ_no_tie t u (by omega),
    fun r => roundQ_no_tie t u (by omega), fun r => roundQ_no_tie t u (by omega), by decide, by decide⟩

/-! ### The temperature and the window of the dew point (R105, R107, R113) -/

/-- Settles O50: the sign nibble only chooses between `m` and `-m`, and C2F is increasing. -/
theorem temperaturePipeline : Obligations.TemperaturePipeline := by
  refine ⟨fun m sg => ⟨fun h => if_pos h, fun h => if_neg h, ?_⟩, fun T10 => ⟨rfl, fun hlo hhi => ?_⟩⟩
  · simp [signed]
  · rw [c2f]
    omega

theorem dewptOf_hundred (dev t10 : Int) : dewptOf dev t10 100 = c2f t10 := if_pos rfl

theorem dewptOf_of_ne {h : Nat} (hh : h ≠ 100) (dev t10 : Int) :
    dewptOf dev t10 h = clampInt (dewFloor t10 h - 9) (dewFloor t10 h + 10) (dewptRef t10 h + dev) := if_neg hh

/-- Whatever its deviation, an implementation stays in the window (R113, DP1). -/
theorem dewptOf_mem_window {h : Nat} (hh : h ≠ 100) (dev t10 : Int) :
    dewFloor t10 h - 9 ≤ dewptOf dev t10 h ∧ dewptOf dev t10 h ≤ dewFloor t10 h + 10 := by
  rw [dewptOf_of_ne hh]
  exact clampInt_bounds (by omega)

/-- The deviation that gives a value of the window is its distance from the reference. -/
theorem dewptOf_sub_dewptRef {h : Nat} (hh : h ≠ 100) {t10 v : Int} (hlo : dewFloor t10 h - 9 ≤ v)
    (hhi : v ≤ dewFloor t10 h + 10) : dewptOf (v - dewptRef t10 h) t10 h = v := by
  rw [dewptOf_of_ne hh, add_sub_cancel]
  exact clampInt_of_mem hlo hhi

/-- Settles O57: the clamp keeps every deviation in the window, and leaves alone one that leads into it. -/
theorem dewPointWindow : Obligations.DewPointWindow := by
  intro t10 h
  refine ⟨?_, fun hh => ?_⟩
  · rintro rfl
    exact dewptOf_hundred _ t10
  · obtain ⟨hlo, hhi⟩ := dewptOf_mem_window hh (Config.dewptDeviation t10 h) t10
    exact ⟨hlo, hhi, fun v hvlo hvhi => ⟨_, dewptOf_sub_dewptRef hh hvlo hvhi⟩⟩

end Sys2Proof.Machine
end

section
/-! PROOFS. The dew point against the Magnus-Tetens formula over the reals (R113): the fixed-point evaluation is the
formula at a logarithm that is off by at most 10^-20, and the formula is Lipschitz on the domain. -/

namespace Sys2Proof.Machine

/-- The exponent of the Magnus-Tetens formula at the logarithm `l` of the humidity (R113). -/
noncomputable def magnusGamma (l : ℝ) (t10 : Int) : ℝ := l + 1767 * t10 / (100 * (2435 + t10))

/-- The dew point in hundredths of a degree F at the exponent `g` (R113). -/
noncomputable def magnusDew (g : ℝ) : ℝ := 43830 * g / (17.67 - g) + 3200

/-- The logarithm that the fixed-point evaluation uses. -/
noncomputable def fixedLog (h : Nat) : ℝ := (lnHundredths h : ℝ) / 10 ^ 24

/-! ### The formula of the spec in these terms -/

/-- The domain of R113 stays clear of the pole of the exponent at -243.5 degrees. -/
theorem temp_add_pos {t10 : Int} (hlo : -1665 ≤ t10) : (0 : ℝ) < 2435 + t10 := by
  have ht : (-1665 : ℝ) ≤ t10 := by exact_mod_cast hlo
  linarith

/-- Tenths of a degree C in the exponent, as the spec writes it in degrees. -/
theorem magnusGamma_eq (l : ℝ) {t10 : Int} (hlo : -1665 ≤ t10) :
    l + 17.67 * ((t10 : ℝ) / 10) / (243.5 + (t10 : ℝ) / 10) = magnusGamma l t10 := by
  have hpos := temp_add_pos hlo
  have hne' : (243.5 + (t10 : ℝ) / 10) ≠ 0 := by linarith
  unfold magnusGamma
  congr 1
  rw [div_eq_div_iff hne' (by positivity)]
  ring

/-- Hundredths of a degree F of the formula, which is in degrees C. -/
theorem magnusDew_eq (g : ℝ) : 100 * (243.5 * g / (17.67 - g) * 9 / 5 + 32) = magnusDew g := by
  unfold magnusDew
  ring

/-- At humidity 100 the dew point is the temperature (DP3). -/
theorem magnusDew_saturated {t10 : Int} (hlo : -1665 ≤ t10) : magnusDew (magnusGamma 0 t10) = c2f t10 := by
  have hpos := temp_add_pos hlo
  have hden : 17.67 - magnusGamma 0 t10 = 17.67 * 2435 / (2435 + t10) := by
    unfold magnusGamma
    field_simp
    ring
  rw [magnusDew, hden, magnusGamma, c2f]
  push_cast
  field_simp
  ring

/-! ### The exponent on the domain, and the slope of the formula there -/

/-- With the logarithm at most 0.66 the exponent stays clear of the pole at 17.67. -/
theorem magnusGamma_le {l : ℝ} {t10 : Int} (hl : l ≤ 0.66) (hlo : -1665 ≤ t10) (hhi : t10 ≤ 1665) :
    magnusGamma l t10 ≤ 8 := by
  have ht : (t10 : ℝ) ≤ 1665 := by exact_mod_cast hhi
  have hfrac : 1767 * (t10 : ℝ) / (100 * (2435 + t10)) ≤ 7.3 := by
    rw [div_le_iff₀ (by linarith [temp_add_pos hlo])]
    linarith
  unfold magnusGamma
  linarith

theorem magnusDew_sub {g g' : ℝ} (hg : 17.67 - g ≠ 0) (hg' : 17.67 - g' ≠ 0) :
    magnusDew g - magnusDew g' = 43830 * 17.67 * (g - g') / ((17.67 - g) * (17.67 - g')) := by
  unfold magnusDew
  field_simp
  ring

/-- Below 8 the formula has slope at most 10^4. -/
theorem magnusDew_lipschitz {g g' : ℝ} (hg : g ≤ 8) (hg' : g' ≤ 8) :
    |magnusDew g - magnusDew g'| ≤ 10 ^ 4 * |g - g'| := by
  have hden : (81 : ℝ) ≤ (17.67 - g) * (17.67 - g') := by nlinarith
  have hpos : 0 < (17.67 - g) * (17.67 - g') := by linarith
  have hnum : |43830 * 17.67 * (g - g')| = 43830 * 17.67 * |g - g'| := by
    rw [abs_mul, abs_of_pos (by norm_num)]
  rw [magnusDew_sub (by linarith) (by linarith), abs_div, hnum, abs_of_pos hpos, div_le_iff₀ hpos]
  nlinarith [abs_nonneg (g - g')]

/-! ### The fixed-point evaluation (log entry 5) -/

theorem fixedLog_close {h : Nat} (h1 : 1 ≤ h) (h2 : h ≤ 165) :
    |fixedLog h - Real.log ((h : ℝ) / 100)| ≤ 1 / 10 ^ 20 := by
  have hclose := lnHundredths_close h h1 h2
  rw [abs_le] at hclose ⊢
  unfold fixedLog
  obtain ⟨hlo, hhi⟩ := hclose
  constructor <;> linarith

theorem log_hundredths_le {h : Nat} (h1 : 1 ≤ h) (h2 : h ≤ 165) : Real.log ((h : ℝ) / 100) ≤ 0.65 := by
  have hpos : (0 : ℝ) < h := by exact_mod_cast h1
  have hle : (h : ℝ) ≤ 165 := by exact_mod_cast h2
  have := Real.log_le_sub_one_of_pos (show (0 : ℝ) < h / 100 by positivity)
  linarith

/-- The fixed-point exponent is the formula's over one factor, common to numerator and denominator. -/
theorem dewExponent_eq {t10 : Int} (hlo : -1665 ≤ t10) (h : Nat) :
    ((lnHundredths h * (100 * (2435 + t10)) + 1767 * t10 * lnScale : Int) : ℝ)
      = magnusGamma (fixedLog h) t10 * (100 * (2435 + t10) * 10 ^ 24) := by
  have hpos := temp_add_pos hlo
  unfold magnusGamma fixedLog lnScale
  push_cast
  field_simp
  ring

theorem dewNumerator_eq {t10 : Int} (hlo : -1665 ≤ t10) (h : Nat) :
    (dewNumerator t10 h : ℝ) = 43830 * magnusGamma (fixedLog h) t10 * (100 * (2435 + t10) * 10 ^ 24) := by
  rw [dewNumerator, Int.cast_mul, dewExponent_eq hlo]
  push_cast
  ring

theorem dewDenominator_eq {t10 : Int} (hlo : -1665 ≤ t10) (h : Nat) :
    (dewDenominator t10 h : ℝ) = (17.67 - magnusGamma (fixedLog h) t10) * (100 * (2435 + t10) * 10 ^ 24) := by
  rw [dewDenominator, Int.cast_sub, dewExponent_eq hlo, lnScale]
  push_cast
  ring

/-- Away from the pole `dewFloor` is the floor of the formula at the fixed-point logarithm. -/
theorem dewFloor_eq_floor {t10 : Int} {h : Nat} (hlo : -1665 ≤ t10) (hg : magnusGamma (fixedLog h) t10 ≤ 8) :
    dewFloor t10 h = ⌊magnusDew (magnusGamma (fixedLog h) t10)⌋ := by
  have hscale : (0 : ℝ) < 100 * (2435 + t10) * 10 ^ 24 := by linarith [temp_add_pos hlo]
  have hden : 0 ≤ dewDenominator t10 h := by
    have : (0 : ℝ) ≤ dewDenominator t10 h := by
      rw [dewDenominator_eq hlo]
      exact mul_nonneg (by linarith) hscale.le
    exact_mod_cast this
  have hquot : 43830 * magnusGamma (fixedLog h) t10 / (17.67 - magnusGamma (fixedLog h) t10)
      = (dewNumerator t10 h : ℝ) / dewDenominator t10 h := by
    rw [dewNumerator_eq hlo, dewDenominator_eq hlo, mul_div_mul_right _ _ hscale.ne']
  rw [magnusDew, hquot, Int.floor_add_ofNat, Int.floor_div_cast_of_nonneg hden, Int.floor_intCast, dewFloor]

/-- An integer of the window is within 10 of the value whose floor the window stands on. -/
theorem abs_sub_le_of_floor_window {x : ℝ} {v : Int} (hlo : ⌊x⌋ - 9 ≤ v) (hhi : v ≤ ⌊x⌋ + 10) :
    |(v : ℝ) - x| ≤ 10 := by
  have hlo' : (⌊x⌋ : ℝ) - 9 ≤ v := by exact_mod_cast hlo
  have hhi' : (v : ℝ) ≤ ⌊x⌋ + 10 := by exact_mod_cast hhi
  have hfloor := Int.floor_le x
  have hlt := Int.lt_floor_add_one x
  rw [abs_le]
  constructor <;> linarith

/-- The fixed-point value is the exact one to within a thousandth, and the window adds 10. -/
theorem dewpt_near_magnusDew {t10 : Int} {h : Nat} (hlo : -1665 ≤ t10) (hhi : t10 ≤ 1665) (h1 : 1 ≤ h)
    (h2 : h ≤ 165) (hne : h ≠ 100) :
    |(dewpt t10 h : ℝ) - magnusDew (magnusGamma (Real.log ((h : ℝ) / 100)) t10)| ≤ 10 + 1 / 1000 := by
  have hclose := fixedLog_close h1 h2
  have hlog := log_hundredths_le h1 h2
  have hg : magnusGamma (Real.log ((h : ℝ) / 100)) t10 ≤ 8 := magnusGamma_le (by linarith) hlo hhi
  have hgFixed : magnusGamma (fixedLog h) t10 ≤ 8 :=
    magnusGamma_le (by linarith [(abs_le.mp hclose).2]) hlo hhi
  have hwindow : |(dewpt t10 h : ℝ) - magnusDew (magnusGamma (fixedLog h) t10)| ≤ 10 := by
    obtain ⟨hwlo, hwhi⟩ := dewptOf_mem_window hne (Config.dewptDeviation t10 h) t10
    rw [dewFloor_eq_floor hlo hgFixed] at hwlo hwhi
    exact abs_sub_le_of_floor_window hwlo hwhi
  have hfixed : |magnusDew (magnusGamma (fixedLog h) t10)
      - magnusDew (magnusGamma (Real.log ((h : ℝ) / 100)) t10)| ≤ 1 / 1000 := by
    have hslope := magnusDew_lipschitz hgFixed hg
    rw [magnusGamma, magnusGamma, add_sub_add_right_eq_sub] at hslope
    rw [magnusGamma, magnusGamma]
    linarith
  exact (abs_sub_le _ _ _).trans (add_le_add hwindow hfixed)

/-- Settles O58: at humidity 100 the logarithm is 0 and the value exact; elsewhere the window is 10 wide on either side
of a value that is off by less than a thousandth. -/
theorem dewPointNearMagnusTetens : Obligations.DewPointNearMagnusTetens := by
  intro t10 h T g dewC hlo hhi h1 h2 hT hg hdew
  subst hT hg hdew
  rw [magnusGamma_eq _ hlo, magnusDew_eq]
  by_cases hne : h = 100
  · subst hne
    have hlog : Real.log (((100 : Nat) : ℝ) / 100) = 0 := by norm_num
    rw [hlog, magnusDew_saturated hlo, dewpt, dewptOf_hundred, sub_self, abs_zero]
    norm_num
  · exact dewpt_near_magnusDew hlo hhi h1 h2 hne

end Sys2Proof.Machine
end

section
/-! PROOFS. The host's operations: a pending access is what the step performs; SET VERBOSE outside BUSY; the result
reads refused while BUSY. -/

namespace Sys2Proof.Machine

/-! ### The access of a step (R143, R144) -/

/-- Settles O12: the step is the access with its slot taken, and an access that decodes is its row. -/
theorem stepRunsHostAccess : Obligations.StepRunsHostAccess := by
  intro s a rest i hport hdecode
  calc step s = hostStep a { s with hostPort := rest } := step_access hport
    _ = exec i { s with hostPort := rest } := hostStep_of_ok hdecode _

/-! ### SET VERBOSE and the refused reads (R145, R146) -/

/-- Settles O38: the write that BUSY would refuse is `writeVerbose`. -/
theorem setVerboseEffect : Obligations.SetVerboseEffect := fun v _ hb =>
  exec_setVerbose_not_busy hb v

/-- Settles O41: both reads are refused, and the value is the unspecified one that the counter `freeUses` names; that
no register `F[n]` is a reserved number keeps the read from the 0 of R18. -/
theorem busyReadsReturnSomething : Obligations.BusyReadsReturnSomething := fun s hb =>
  ⟨fun f => ⟨Config.unspecifiedRead s.freeUses, exec_readF_busy (fieldOfNumber_fieldNumber f) hb⟩,
    Config.unspecifiedRead s.freeUses, exec_readValid_busy hb⟩

end Sys2Proof.Machine
end

section
/-! PROOFS. No fatal error: every instruction, and each part of a step, answers a next state. -/

namespace Sys2Proof.Machine

/-- A packet row ends as an attempt ends, and a host row is one of the host's updates, nothing at all when it is
refused (R146). -/
theorem exec_answers (i : Instr) (s : State) : ∃ t, exec i s = .next t := by
  cases hside : packetSide i with
  | true =>
    obtain ⟨t, hexec, _⟩ := exec_packetSide_end i s hside
    exact ⟨t, hexec⟩
  | false =>
    obtain ⟨act, _, hexec⟩ := exec_hostSide_self s hside
    exact ⟨act s, hexec⟩

theorem hostStep_answers (a : HostAccess) (s : State) : ∃ t, hostStep a s = .next t := by
  cases hdecode : decode (.access a) with
  | ok i => exact hostStep_of_ok hdecode s ▸ exec_answers i s
  | error e => exact ⟨unmappedAccess s e, hostStep_of_error hdecode s⟩

theorem blockStep_answers (s : State) : ∃ t, blockStep s = .next t := by
  by_cases hb : s.phase = .busy
  · rw [blockStep_of_busy hb]
    rcases scanStep_cases s with ⟨_, hscan⟩ | ⟨_, hscan⟩ | ⟨_, _, t, _, hscan, _⟩
    · exact ⟨finishScan s, hscan⟩
    · exact ⟨noPreambleOutcome s, hscan⟩
    · exact ⟨t, hscan⟩
  · exact ⟨s, blockStep_of_not_busy hb⟩

/-- Settles O36: a step is the block's or the host's, by the slot, and each of the two answers. -/
theorem noFatalError : Obligations.NoFatalError := by
  refine ⟨exec_answers, fun s => ?_⟩
  rcases step_cases s with ⟨_, hstep⟩ | ⟨_, _, hstep⟩ | ⟨a, _, _, hstep⟩ <;> rw [hstep]
  · exact blockStep_answers s
  · exact blockStep_answers (takeSlot s)
  · exact hostStep_answers a (takeSlot s)

end Sys2Proof.Machine
end

section
/-! PROOFS. The start of a scan and the soft reset. -/

namespace Sys2Proof.Machine

/-- Settles O37: outside BUSY the next state is `startScan` after the VERBOSE bit of the same write (R17, R172); of
the fields these two leave alone, the DIAG records are one (log entry 14). -/
theorem startEffect : Obligations.StartEffect := by
  intro v s hb
  refine ⟨startScan (writeVerbose s v), exec_start_not_busy hb v, ?_⟩
  simp

/-- SRST tests no phase (R144). -/
theorem exec_srst (s : State) : exec .srst s = .next (softReset s) := rfl

/-- Settles O39: the next state is `softReset` in every phase, which keeps BITBUF itself and so each of its cells
(R171). -/
theorem softResetEffect : Obligations.SoftResetEffect := by
  intro s
  refine ⟨softReset s, exec_srst s, ?_⟩
  simp

end Sys2Proof.Machine
end
